-- ==== Sys2Proof/Word.lean ====
section
/-! DEFINITION. The word types of the GFQR engine (spec/00_scope.md R8, spec/10_state.md R24,
spec/20_memory.md R60). All values are unsigned; the block has no signed value. -/

namespace Sys2Proof

/-- A register or command word: 32 bits (R24, R90). -/
abbrev Word := BitVec 32

/-- A byte: a command field, a polynomial coefficient, a codeword, a memory byte. -/
abbrev Byte := BitVec 8

/-- A byte offset into the block's one address space of 2^17 offsets (R60). -/
abbrev Offset := BitVec 17

end Sys2Proof
end

