-- ==== Sys2Proof/Syntax.lean ====
section
/-! DEFINITION. The commands of the GFQR engine (spec/30_encoding.md R93), one constructor per row of
spec/opcode_table.json. A constructor's arguments are the command's operand fields, as the 8-bit fields
they are in the word (R91), in the order F2, F1, F0. -/

namespace Sys2Proof

/-- The commands (R93). -/
inductive Instr where
  | nop
  | gfMul (a b : Byte)
  | gfDiv (a b : Byte)
  | gfInv (b : Byte)
  | gfLog (a : Byte)
  | gfExp (e : Byte)
  | polyMul
  | polyMod
  | rsGen (t : Byte)
  | rsEcc (t : Byte)
  | bbClear
  | bbPut (nbits : Byte)
  | bbPutBit (bit : Byte)
  | qrClear
  | qrConfig (mreq ecc vreq : Byte)
  | qrAppend
  | qrSelVer
  | qrCodewords
  | qrLayout (test mask : Byte)
  | qrPenalty
  | qrMaskSel
  | qrFinal
  | qrMake
  | qrFmtBch (ecc mask : Byte)
  | qrVerBch (ver : Byte)
  | tblQuery (ecc ver : Byte)
  | tblAlign (ver : Byte)
  | crcInit
  | crcByte (b : Byte)
  | crcBuf
  deriving DecidableEq, Repr

/-- The errors a command can end with (spec/60_exceptions.md R350), codes 1 to 8. Code 0 is success. -/
inductive ErrorCode where
  | invalidArgument
  | dataTooLong
  | codeLengthOverflow
  | illegalCommand
  | rangeError
  | sequenceError
  | lengthError
  | bufferOverflow
  deriving DecidableEq, Repr

/-- The command formats: which fields are operands (R92). -/
inductive Format where
  | N
  | A
  | B
  | C
  deriving DecidableEq, Repr

end Sys2Proof
end

