-- ==== Sys2Proof/WellFormed.lean ====
section
/-! DEFINITION. The legal operand fields of a command: the "legal" ranges of spec/30_encoding.md R93. -/

namespace Sys2Proof

/-- Every operand field lies in its legal range (R93). A command that is not well formed fails with
RangeError (R94 step 3). -/
def Instr.wellFormed : Instr → Bool
  | .nop | .gfMul _ _ | .gfDiv _ _ | .gfInv _ | .gfLog _ | .gfExp _ => true
  | .polyMul | .polyMod | .rsGen _ => true
  | .rsEcc t => decide (1 ≤ t.toNat)
  | .bbClear => true
  | .bbPut nbits => decide (nbits.toNat ≤ 32)
  | .bbPutBit bit => decide (bit.toNat ≤ 1)
  | .qrClear => true
  | .qrConfig mreq ecc vreq =>
      decide (mreq.toNat ≤ 8) && decide (ecc.toNat ≤ 3) && decide (vreq.toNat ≤ 40)
  | .qrAppend | .qrSelVer | .qrCodewords => true
  | .qrLayout test mask => decide (test.toNat ≤ 1) && decide (mask.toNat ≤ 7)
  | .qrPenalty | .qrMaskSel | .qrFinal | .qrMake => true
  | .qrFmtBch ecc mask => decide (ecc.toNat ≤ 3) && decide (mask.toNat ≤ 7)
  | .qrVerBch ver => decide (ver.toNat ≤ 63)
  | .tblQuery ecc ver => decide (ecc.toNat ≤ 3) && decide (1 ≤ ver.toNat) && decide (ver.toNat ≤ 40)
  | .tblAlign ver => decide (1 ≤ ver.toNat) && decide (ver.toNat ≤ 40)
  | .crcInit | .crcByte _ | .crcBuf => true

end Sys2Proof
end

