-- ==== Sys2Proof/Decode.lean ====
section
/-! DEFINITION. Decoding and encoding of command words (spec/30_encoding.md R90-R96). -/

namespace Sys2Proof

/-- The field OPC = W[31:24] (R91). -/
def opField (w : Word) : Byte := w.extractLsb' 24 8

/-- The field F2 = W[23:16] (R91). -/
def f2Field (w : Word) : Byte := w.extractLsb' 16 8

/-- The field F1 = W[15:8] (R91). -/
def f1Field (w : Word) : Byte := w.extractLsb' 8 8

/-- The field F0 = W[7:0] (R91). -/
def f0Field (w : Word) : Byte := w.extractLsb' 0 8

/-- The word with the four given bytes, the first in bits [31:24] (R8, R90). -/
def word (b3 b2 b1 b0 : Byte) : Word := b3 ++ b2 ++ b1 ++ b0

/-- Every field the format requires to be zero is zero (R92). -/
def Format.zeroFieldsOk : Format → Byte → Byte → Byte → Bool
  | .N, f2, f1, f0 => f2 == 0 && f1 == 0 && f0 == 0
  | .A, f2, f1, _ => f2 == 0 && f1 == 0
  | .B, f2, _, _ => f2 == 0
  | .C, _, _, _ => true

/-- One row of the opcode map (R93): the opcode, the format, and the command of the fields F2, F1, F0. -/
structure OpRow where
  opc : Byte
  fmt : Format
  command : Byte → Byte → Byte → Instr

/-- The opcode map of R93, opcodes 0x00 to 0x1F. -/
def opMapArith : List OpRow :=
  [ ⟨0x00, .N, fun _ _ _ => .nop⟩
  , ⟨0x01, .B, fun _ a b => .gfMul a b⟩
  , ⟨0x02, .B, fun _ a b => .gfDiv a b⟩
  , ⟨0x03, .A, fun _ _ b => .gfInv b⟩
  , ⟨0x04, .A, fun _ _ a => .gfLog a⟩
  , ⟨0x05, .A, fun _ _ e => .gfExp e⟩
  , ⟨0x10, .N, fun _ _ _ => .polyMul⟩
  , ⟨0x11, .N, fun _ _ _ => .polyMod⟩
  , ⟨0x12, .A, fun _ _ t => .rsGen t⟩
  , ⟨0x13, .A, fun _ _ t => .rsEcc t⟩ ]

/-- The opcode map of R93, opcodes 0x20 to 0x42. -/
def opMapBuilder : List OpRow :=
  [ ⟨0x20, .N, fun _ _ _ => .bbClear⟩
  , ⟨0x21, .A, fun _ _ n => .bbPut n⟩
  , ⟨0x22, .A, fun _ _ b => .bbPutBit b⟩
  , ⟨0x30, .N, fun _ _ _ => .qrClear⟩
  , ⟨0x31, .C, fun mreq ecc vreq => .qrConfig mreq ecc vreq⟩
  , ⟨0x32, .N, fun _ _ _ => .qrAppend⟩
  , ⟨0x33, .N, fun _ _ _ => .qrSelVer⟩
  , ⟨0x34, .N, fun _ _ _ => .qrCodewords⟩
  , ⟨0x35, .B, fun _ test mask => .qrLayout test mask⟩
  , ⟨0x36, .N, fun _ _ _ => .qrPenalty⟩
  , ⟨0x37, .N, fun _ _ _ => .qrMaskSel⟩
  , ⟨0x38, .N, fun _ _ _ => .qrFinal⟩
  , ⟨0x39, .N, fun _ _ _ => .qrMake⟩
  , ⟨0x3A, .B, fun _ ecc mask => .qrFmtBch ecc mask⟩
  , ⟨0x3B, .A, fun _ _ ver => .qrVerBch ver⟩
  , ⟨0x3C, .B, fun _ ecc ver => .tblQuery ecc ver⟩
  , ⟨0x3D, .A, fun _ _ ver => .tblAlign ver⟩
  , ⟨0x40, .N, fun _ _ _ => .crcInit⟩
  , ⟨0x41, .A, fun _ _ b => .crcByte b⟩
  , ⟨0x42, .N, fun _ _ _ => .crcBuf⟩ ]

/-- The opcode map of R93. -/
def opMap : List OpRow := opMapArith ++ opMapBuilder

/-- Steps 1 and 2 of R94: the command of a word, or IllegalCommand for an opcode that is not in the map
(R95) or a nonzero must-be-zero field. Step 3, the operand ranges, is the first check every command's
meaning makes (log entry 10), and `decodeChecked` is the three steps together. -/
def decode (w : Word) : Except ErrorCode Instr :=
  match opMap.find? (fun row => row.opc == opField w) with
  | none => .error .illegalCommand
  | some row =>
    if row.fmt.zeroFieldsOk (f2Field w) (f1Field w) (f0Field w) then
      .ok (row.command (f2Field w) (f1Field w) (f0Field w))
    else .error .illegalCommand

/-- The whole decode function of R94: IllegalCommand, then RangeError on the operand fields. -/
def decodeChecked (w : Word) : Except ErrorCode Instr :=
  match decode w with
  | .error c => .error c
  | .ok i => if i.wellFormed then .ok i else .error .rangeError

/-- The word of a command (R93, R97). -/
def encode : Instr → Word
  | .nop => word 0x00 0 0 0
  | .gfMul a b => word 0x01 0 a b
  | .gfDiv a b => word 0x02 0 a b
  | .gfInv b => word 0x03 0 0 b
  | .gfLog a => word 0x04 0 0 a
  | .gfExp e => word 0x05 0 0 e
  | .polyMul => word 0x10 0 0 0
  | .polyMod => word 0x11 0 0 0
  | .rsGen t => word 0x12 0 0 t
  | .rsEcc t => word 0x13 0 0 t
  | .bbClear => word 0x20 0 0 0
  | .bbPut nbits => word 0x21 0 0 nbits
  | .bbPutBit bit => word 0x22 0 0 bit
  | .qrClear => word 0x30 0 0 0
  | .qrConfig mreq ecc vreq => word 0x31 mreq ecc vreq
  | .qrAppend => word 0x32 0 0 0
  | .qrSelVer => word 0x33 0 0 0
  | .qrCodewords => word 0x34 0 0 0
  | .qrLayout test mask => word 0x35 0 test mask
  | .qrPenalty => word 0x36 0 0 0
  | .qrMaskSel => word 0x37 0 0 0
  | .qrFinal => word 0x38 0 0 0
  | .qrMake => word 0x39 0 0 0
  | .qrFmtBch ecc mask => word 0x3A 0 ecc mask
  | .qrVerBch ver => word 0x3B 0 0 ver
  | .tblQuery ecc ver => word 0x3C 0 ecc ver
  | .tblAlign ver => word 0x3D 0 0 ver
  | .crcInit => word 0x40 0 0 0
  | .crcByte b => word 0x41 0 0 b
  | .crcBuf => word 0x42 0 0 0

/-- The command the decoder reads from the low `nbits` bits of `w`; a command is one 32-bit word
whatever its bits (R96), so no longer one exists. -/
def decodeTableWord (nbits w : Nat) : Option Instr :=
  if nbits ≤ 32 then
    match decode (BitVec.ofNat 32 (w % 2 ^ nbits)) with
    | .ok i => some i
    | .error _ => none
  else none

end Sys2Proof
end

