-- ==== Sys2Proof/Config.lean ====
section
/-! DEFINITION. What is fixed for the machine (spec/00_scope.md R7) and the values the spec leaves open
(spec/93_implementation_defined.md I1-I7). The open values are constants with no body: no proof can see
what they are, so a statement that holds, holds whatever they are. -/

namespace Sys2Proof.Config

/-- The most coefficients one polynomial window holds (R7, POLY_MAX). -/
def polyMax : Nat := 256

/-- Bytes of the window INBUF (R7, INBUF_SIZE). -/
def inbufSize : Nat := 4096

/-- Bits of the bit buffer (R7, BB_SIZE). -/
def bbBits : Nat := 32768

/-- Segments the symbol builder holds (R7, MAX_SEGS). -/
def maxSegs : Nat := 8

/-- The constant of register ID: the ASCII bytes of GFQR (R25). -/
def idValue : Word := 0x47465152#32

/-- Which aligned block of 2^17 host addresses the engine answers: left open (I1). -/
opaque baseIndex : Nat

/-- BASE, the host address of offset 0: any address aligned to 2^17 (R7, I1). -/
def base : Nat := 2 ^ 17 * baseIndex

/-- The host address of a block offset (R60). -/
def hostAddress (off : Offset) : Nat := base + off.toNat

/-- The block offset a host address selects, if it lies in this block's 2^17 addresses (R60). -/
def offsetOf (addr : Nat) : Option Offset :=
  if base ≤ addr ∧ addr < base + 2 ^ 17 then some (BitVec.ofNat 17 (addr - base)) else none

/-- The value of a RAM byte that is unspecified: a byte nothing has written since power-on
(spec/10_state.md R58, I2), or a byte of PR, BB or CW beyond its length (spec/20_memory.md R68, R71, R72;
I3-I6). `gen` counts how often the window's bytes became unspecified, so that a byte keeps its value
until it is written or becomes unspecified anew. FREE VALUE, log entries 4 and 5. -/
opaque freeByte (gen addr : Nat) : Byte

/-- The value the `n`-th read takes of what a pending command may write (spec/20_memory.md R76, I7:
any value per read, no law between reads). FREE VALUE, log entry 6. -/
opaque busyRead (n : Nat) : Word

end Sys2Proof.Config
end

