-- ==== Sys2Proof/Machine/State.lean ====
section
/-! DEFINITION. The state of the GFQR engine (spec/10_state.md R21-R59), the turns of its host
(spec/20_memory.md R60-R66), the state after power-on reset (spec/70_reset_and_hazards.md R380, R381), and
the reasons a step can stop. -/

namespace Sys2Proof.Machine

/-- The symbol builder's states; the values 6 and 7 of the field never occur (R53). -/
inductive QrState where
  | empty
  | dataAppended
  | versionChosen
  | matrixLaidOut
  | maskChosen
  | matrixFinal
  deriving DecidableEq, Repr

/-- One cell of a module matrix (spec/00_scope.md R11). -/
inductive QrCell where
  | unset
  | light
  | dark
  deriving DecidableEq, Repr

/-- A module matrix: its rows from top to bottom, each from left to right (R11). -/
abbrev Grid := List (List QrCell)

/-- The RAM windows' listed bytes: (offset, byte) pairs, offsets strictly rising. An offset that is not
listed holds no specified byte. -/
abbrev Memory := List Host.Cell

/-- A segment: a range of INBUF (spec/44_symbol_builder.md R225), the registers SEGk_OFF and SEGk_LEN (R44). -/
structure Segment where
  off : BitVec 12
  len : BitVec 13
  deriving DecidableEq, Repr

/-- The fields of QR_CFG (R35). -/
structure QrCfg where
  vreq : BitVec 6
  ecc : BitVec 2
  mreq : BitVec 4
  deriving DecidableEq, Repr

/-- The registers of the register page (R24). -/
inductive Reg where
  | id | ctrl | status | errcode | cmd | arg0 | arg1 | res0 | res1 | paLen | pbLen | prLen | bbLen
  | qrCfg | qrVer | qrMask | qrSize | cwLen | crc | segCount
  | penalty | penR1 | penR2 | penR3 | penR4
  | mscore (k : Fin 8)
  | segOff (k : Fin 8)
  | segLen (k : Fin 8)
  | reserved
  deriving DecidableEq, Repr

/-- The memory windows (spec/20_memory.md R61). -/
inductive Window where
  | exp | log | pa | pb | pr | inbuf | bb | cw | matrix
  deriving DecidableEq, Repr

/-- The width of a host access: 8, 16 or 32 bits (R63). -/
inductive Width where
  | byte | half | full
  deriving DecidableEq, Repr

/-- One access of the host, at a block offset (R60). A write stores the low bits of its value. -/
inductive HostAccess where
  | read (width : Width) (off : Offset)
  | write (width : Width) (off : Offset) (value : Word)
  deriving DecidableEq, Repr

/-- Whose turn it is: the host makes one access, or the engine may take its step
(spec/40_control.md R120; spec/93_implementation_defined.md I18). -/
inductive Turn where
  | host (access : HostAccess)
  | engine
  deriving DecidableEq, Repr

/-- What the block answered to the last host access. -/
inductive HostResp where
  | none
  | wrote
  | value (v : Word)
  deriving DecidableEq, Repr

/-- Why an access is answered with a bus error (spec/20_memory.md R63, R66). -/
inductive BusCause where
  | unmapped
  | misaligned
  deriving DecidableEq, Repr

/-- The reasons a step stops. Both belong to a host access, never to a command, and neither changes a
register (spec/60_exceptions.md R356). -/
inductive Fault where
  /-- Raised by the host port for an access to an unmapped offset, or one that is misaligned, of the wrong
  width or across a window's end (R63, R64, R66). The block itself goes on unchanged, so stopping is safe. -/
  | busError (off : Offset) (cause : BusCause)
  /-- Raised by the host port for a write of ARG0, ARG1, PA_LEN, PB_LEN, PA, PB or INBUF while BUSY = 1:
  the pending command's result is then unspecified (R76, R356). Stopping is safe. -/
  | hostHazard (off : Offset)
  deriving DecidableEq, Repr

/-- The reasons a command has no meaning. -/
inductive Refusal where
  /-- Raised by `exec` for a command whose meaning is not written; no arm does. Safe: nothing runs. -/
  | notModelled (mnemonic : String)
  deriving DecidableEq, Repr

/-- The state of the block (R21), and below it the model's own fields. -/
structure State where
  /-- CTRL.IRQ_EN (R26). -/
  irqEn : Bool
  /-- STATUS.BUSY (R27). -/
  busy : Bool
  /-- STATUS.DONE (R27). -/
  done : Bool
  /-- STATUS.ERR (R27). -/
  err : Bool
  /-- STATUS.OVR (R27). -/
  ovr : Bool
  /-- ERRCODE.CODE (R28). -/
  errCode : BitVec 4
  /-- ERRCODE.OPCODE (R28). -/
  errOpcode : BitVec 8
  /-- LATCH, the word of the pending command (R52). -/
  latch : Word
  /-- ARG0 (R30). -/
  arg0 : Word
  /-- ARG1 (R30). -/
  arg1 : Word
  /-- RES0 (R31). -/
  res0 : Word
  /-- RES1 (R31). -/
  res1 : Word
  /-- PA_LEN.LEN (R32). -/
  paLen : BitVec 9
  /-- PB_LEN.LEN (R32). -/
  pbLen : BitVec 9
  /-- PR_LEN (R33). -/
  prLen : BitVec 9
  /-- BB_LEN (R34). -/
  bbLen : BitVec 16
  /-- QR_CFG (R35). -/
  cfg : QrCfg
  /-- QRSTATE (R53). -/
  qrState : QrState
  /-- QR_VER (R36). -/
  qrVer : BitVec 6
  /-- CW_VALID (R54). -/
  cwValid : Bool
  /-- CW_LEN.TOTAL (R39). -/
  cwTotal : BitVec 12
  /-- CW_LEN.DATA (R39). -/
  cwData : BitVec 12
  /-- QR_SIZE (R38). -/
  qrSize : BitVec 8
  /-- QR_MASK.LAYOUT_MASK (R37). -/
  layoutMask : BitVec 3
  /-- QR_MASK.LAYOUT_TEST (R37). -/
  layoutTest : Bool
  /-- CHOSEN (R55). -/
  chosen : BitVec 3
  /-- CHOSEN_VALID (R55). -/
  chosenValid : Bool
  /-- CRC (R40). -/
  crc : BitVec 16
  /-- SEG_COUNT (R41). -/
  segCount : BitVec 4
  /-- SEG0_OFF, SEG0_LEN to SEG7_OFF, SEG7_LEN (R44). -/
  segs : Vector Segment 8
  /-- PENALTY (R42). -/
  penalty : Word
  /-- PEN_R1 (R42). -/
  penR1 : Word
  /-- PEN_R2 (R42). -/
  penR2 : Word
  /-- PEN_R3 (R42). -/
  penR3 : Word
  /-- PEN_R4 (R42). -/
  penR4 : Word
  /-- MSCORE0 to MSCORE7 (R43). -/
  mscore : Vector Word 8
  /-- The specified bytes of PA, PB, PR, INBUF, BB and CW (spec/20_memory.md R68, R69, R71, R72). -/
  mem : Memory
  /-- The cells of MATRIX, no row when QR_SIZE = 0 (R70). -/
  matrix : Grid
  /-- THE MODEL'S OWN: how often PR's unspecified bytes became unspecified (log entry 5). -/
  prGen : Nat
  /-- THE MODEL'S OWN: the same for BB (log entry 5). -/
  bbGen : Nat
  /-- THE MODEL'S OWN: the same for CW (log entry 5). -/
  cwGen : Nat
  /-- THE MODEL'S OWN: how many free values reads made while BUSY = 1 have taken (log entry 6). -/
  draws : Nat
  /-- THE MODEL'S OWN: the turns still to come, the next one first (log entry 1). -/
  turns : List Turn
  /-- THE MODEL'S OWN: the answer to the last host access (log entry 14). -/
  resp : HostResp
  deriving DecidableEq, Repr

/-- The state after power-on reset (R380, R381). LATCH is irrelevant there and 0 here (R52, log entry 8);
the model's own fields start empty (log entries 1, 5, 6, 14). -/
def State.reset : State where
  irqEn := false
  busy := false
  done := false
  err := false
  ovr := false
  errCode := 0
  errOpcode := 0
  latch := 0
  arg0 := 0
  arg1 := 0
  res0 := 0
  res1 := 0
  paLen := 0
  pbLen := 0
  prLen := 0
  bbLen := 0
  cfg := ⟨0, 0, 8⟩
  qrState := .empty
  qrVer := 0
  cwValid := false
  cwTotal := 0
  cwData := 0
  qrSize := 0
  layoutMask := 0
  layoutTest := false
  chosen := 0
  chosenValid := false
  crc := 0xFFFF
  segCount := 0
  segs := Vector.replicate 8 ⟨0, 0⟩
  penalty := 0
  penR1 := 0
  penR2 := 0
  penR3 := 0
  penR4 := 0
  mscore := Vector.replicate 8 0
  mem := []
  matrix := []
  prGen := 0
  bbGen := 0
  cwGen := 0
  draws := 0
  turns := []
  resp := .none

end Sys2Proof.Machine
end

