-- ==== Sys2Proof/Machine/Ops.lean ====
section
/-! DEFINITION. The named operations over memory and registers that the commands and the host port share:
the windows and their bytes (spec/20_memory.md R61, R67-R72), the acceptance and the completion of a command
(spec/40_control.md R121, R123), the invalidation of a build (spec/44_symbol_builder.md R223) and the soft
reset (spec/70_reset_and_hazards.md R382). -/

namespace Sys2Proof.Machine

/-! ### The list of listed bytes -/

/-- The byte listed at an offset. -/
def Memory.read : Memory → Nat → Option Byte
  | [], _ => none
  | (k, v) :: m, a => if k = a then some v else Memory.read m a

/-- Lists a byte at an offset, in place of the one listed there. -/
def Memory.write : Memory → Nat → Byte → Memory
  | [], a, b => [(a, b)]
  | (k, v) :: m, a, b =>
    if a < k then (a, b) :: (k, v) :: m
    else if a = k then (a, b) :: m
    else (k, v) :: Memory.write m a b

/-- Lists bytes at consecutive offsets from `a` on. -/
def Memory.writeAll : Memory → Nat → List Byte → Memory
  | m, _, [] => m
  | m, a, b :: bs => Memory.writeAll (m.write a b) (a + 1) bs

/-- The pairs of consecutive offsets from `a` on. -/
def cellsFrom : Nat → List Byte → Memory
  | _, [] => []
  | a, b :: bs => (a, b) :: cellsFrom (a + 1) bs

/-- Replaces what is listed in the `size` offsets from `base` on by the given bytes, the first at `base`:
the window's other bytes are then unspecified. -/
def Memory.setWindow (m : Memory) (base size : Nat) (bytes : List Byte) : Memory :=
  m.filter (fun c => decide (c.1 < base)) ++ cellsFrom base (bytes.take size) ++
    m.filter (fun c => decide (base + size ≤ c.1))

/-- The canonical form: offsets strictly rising. (An unlisted offset reads as no byte, so that no listed
byte can equal what an unlisted offset reads as.) -/
abbrev Memory.wf (m : Memory) : Prop := m.Pairwise (fun x y => x.1 < y.1)

/-! ### The windows -/

/-- The first offset of a window (R61). -/
def Window.base : Window → Nat
  | .exp => 0x01000
  | .log => 0x01100
  | .pa => 0x02000
  | .pb => 0x02100
  | .pr => 0x02200
  | .inbuf => 0x03000
  | .bb => 0x04000
  | .cw => 0x05000
  | .matrix => 0x10000

/-- The number of bytes of a window (R61). -/
def Window.size : Window → Nat
  | .exp | .log | .pa | .pb | .pr => 256
  | .inbuf | .bb | .cw => 4096
  | .matrix => 177 * 256

/-- Which generation of unspecified values a RAM byte of this offset belongs to (log entry 5). -/
def State.genOf (s : State) (a : Nat) : Nat :=
  if Window.base .pr ≤ a ∧ a < Window.base .pr + Window.size .pr then s.prGen
  else if Window.base .bb ≤ a ∧ a < Window.base .bb + Window.size .bb then s.bbGen
  else if Window.base .cw ≤ a ∧ a < Window.base .cw + Window.size .cw then s.cwGen
  else 0

/-- The byte of RAM at an offset: the listed byte, or a free value where the byte is unspecified
(spec/10_state.md R58; spec/20_memory.md R68, R71, R72). -/
def State.ramByte (s : State) (a : Nat) : Byte :=
  match s.mem.read a with
  | some b => b
  | none => Config.freeByte (s.genOf a) a

/-- `n` bytes of RAM from an offset on. -/
def State.ramBytes (s : State) (a n : Nat) : List Byte :=
  (List.range n).map (fun k => s.ramByte (a + k))

/-- The cell (r, c) of a matrix; unset outside it. -/
def Grid.get (g : Grid) (r c : Nat) : QrCell := (g.getD r []).getD c .unset

/-- Sets the cell (r, c) of a matrix. -/
def Grid.set (g : Grid) (r c : Nat) (m : QrCell) : Grid := g.modify r (fun row => row.set c m)

/-- A cell as MATRIX shows it: bit 1 resolved, bit 0 dark (R70). -/
def QrCell.byte : QrCell → Byte
  | .unset => 0x00
  | .light => 0x02
  | .dark => 0x03

/-- The byte at index `k` of MATRIX, cell (k / 256, k mod 256): 0x00 outside the QR_SIZE by QR_SIZE
cells (R70). -/
def State.matrixByte (s : State) (k : Nat) : Byte :=
  if k / 256 < s.qrSize.toNat ∧ k % 256 < s.qrSize.toNat then
    (Grid.get s.matrix (k / 256) (k % 256)).byte
  else 0x00

/-! ### The life of a command -/

/-- Acceptance of the command word `w` (R121). -/
def State.accept (s : State) (w : Word) : State :=
  { s with latch := w, busy := true, done := false, err := false, errCode := 0, errOpcode := 0 }

/-- The number of an error (spec/60_exceptions.md R350). -/
def errorNumber : ErrorCode → BitVec 4
  | .invalidArgument => 1
  | .dataTooLong => 2
  | .codeLengthOverflow => 3
  | .illegalCommand => 4
  | .rangeError => 5
  | .sequenceError => 6
  | .lengthError => 7
  | .bufferOverflow => 8

/-- Completion with success (R123): the command's writes stand in `s`. -/
def State.succeed (s : State) : State :=
  { s with busy := false, done := true, err := false, errCode := 0, errOpcode := 0 }

/-- Completion with an error (R123, spec/60_exceptions.md R355): the block's one exception entry. The code
and the failing opcode are recorded; nothing else changes (R124). A command accepted later clears them
(R359), so there is no return. -/
def State.fail (s : State) (c : ErrorCode) : State :=
  { s with busy := false, done := true, err := true, errCode := errorNumber c, errOpcode := opField s.latch }

/-- The engine's step for a command whose outcome from state `s` is `r` (R123). -/
def complete (s : State) (r : Except ErrorCode State) : Host.Outcome State Fault Refusal :=
  match r with
  | .ok t => .next t.succeed
  | .error c => .next (s.fail c)

/-! ### What commands write -/

/-- RES0. -/
def State.setRes0 (s : State) (v : Word) : State := { s with res0 := v }

/-- RES0 and RES1. -/
def State.setRes (s : State) (v0 v1 : Word) : State := { s with res0 := v0, res1 := v1 }

/-- CRC. -/
def State.setCrc (s : State) (c : BitVec 16) : State := { s with crc := c }

/-- A polynomial result: PR holds it from index 0 on, PR_LEN its length; the bytes of PR above it are
unspecified (spec/42_poly_rs.md R167, spec/20_memory.md R68). -/
def State.storePr (s : State) (p : List Byte) : State :=
  { s with
    mem := s.mem.setWindow (Window.base .pr) (Window.size .pr) p
    prLen := BitVec.ofNat 9 p.length
    prGen := s.prGen + 1 }

/-- One byte of BB, and the bit buffer's length. -/
def State.storeBit (s : State) (k : Nat) (b : Byte) (len : Nat) : State :=
  { s with mem := s.mem.write (Window.base .bb + k) b, bbLen := BitVec.ofNat 16 len }

/-- The bit buffer emptied; the bytes of BB are unspecified (spec/43_tables_bitbuf.md R206). -/
def State.clearBb (s : State) : State :=
  { s with
    mem := s.mem.setWindow (Window.base .bb) (Window.size .bb) []
    bbLen := 0
    bbGen := s.bbGen + 1 }

/-- QR_CFG. -/
def State.setCfg (s : State) (c : QrCfg) : State := { s with cfg := c }

/-- QRSTATE. -/
def State.setQrState (s : State) (q : QrState) : State := { s with qrState := q }

/-- QR_VER. -/
def State.setVersion (s : State) (v : BitVec 6) : State := { s with qrVer := v }

/-- The segment list emptied. -/
def State.clearSegs (s : State) : State :=
  { s with segCount := 0, segs := Vector.replicate 8 ⟨0, 0⟩ }

/-- A segment appended at index SEG_COUNT. -/
def State.addSeg (s : State) (g : Segment) : State :=
  { s with segCount := s.segCount + 1, segs := s.segs.setIfInBounds s.segCount.toNat g }

/-- The procedure invalidate() (spec/44_symbol_builder.md R223): the codeword cache, the matrix and the
chosen mask are dropped; the bytes of CW are unspecified. -/
def State.invalidate (s : State) : State :=
  { s with
    cwValid := false
    cwTotal := 0
    cwData := 0
    mem := s.mem.setWindow (Window.base .cw) (Window.size .cw) []
    cwGen := s.cwGen + 1
    qrSize := 0
    matrix := []
    chosenValid := false
    chosen := 0
    layoutMask := 0
    layoutTest := false }

/-- The writes of a codeword build (spec/44_symbol_builder.md R232): BB holds the `dc` data codewords `d`, CW
the codeword sequence `c` of `tc` bytes; the other bytes of both are unspecified. -/
def State.storeCodewords (s : State) (d c : List Byte) (dc tc : Nat) : State :=
  { s with
    mem := (s.mem.setWindow (Window.base .bb) (Window.size .bb) d).setWindow
      (Window.base .cw) (Window.size .cw) c
    bbLen := BitVec.ofNat 16 (8 * dc)
    bbGen := s.bbGen + 1
    cwTotal := BitVec.ofNat 12 tc
    cwData := BitVec.ofNat 12 dc
    cwGen := s.cwGen + 1
    cwValid := true }

/-- The writes of a layout (spec/45_matrix_layout.md R273): MATRIX, QR_SIZE, LAYOUT_MASK, LAYOUT_TEST. -/
def State.storeMatrix (s : State) (g : Grid) (n : Nat) (mask : BitVec 3) (test : Bool) : State :=
  { s with matrix := g, qrSize := BitVec.ofNat 8 n, layoutMask := mask, layoutTest := test }

/-- CHOSEN and CHOSEN_VALID (R55). -/
def State.choose (s : State) (mask : BitVec 3) : State := { s with chosen := mask, chosenValid := true }

/-- PENALTY and PEN_R1 to PEN_R4 (R42). -/
def State.storePenalty (s : State) (total p1 p2 p3 p4 : Nat) : State :=
  { s with
    penalty := BitVec.ofNat 32 total
    penR1 := BitVec.ofNat 32 p1
    penR2 := BitVec.ofNat 32 p2
    penR3 := BitVec.ofNat 32 p3
    penR4 := BitVec.ofNat 32 p4 }

/-- MSCORE0 to MSCORE7 (R43). -/
def State.storeScores (s : State) (scores : List Nat) : State :=
  { s with mscore := Vector.ofFn (fun k : Fin 8 => BitVec.ofNat 32 (scores.getD k.val 0)) }

/-! ### What the host writes -/

/-- The host's next turns. -/
def State.setTurns (s : State) (ts : List Turn) : State := { s with turns := ts }

/-- The answer to a host access. -/
def State.respond (s : State) (r : HostResp) : State := { s with resp := r }

/-- One more free value taken by a read (log entry 6). -/
def State.drawn (s : State) : State := { s with draws := s.draws + 1 }

/-- Bytes of a writable window (R62). -/
def State.writeRam (s : State) (a : Nat) (bytes : List Byte) : State :=
  { s with mem := s.mem.writeAll a bytes }

/-- ARG0. -/
def State.setArg0 (s : State) (v : Word) : State := { s with arg0 := v }

/-- ARG1. -/
def State.setArg1 (s : State) (v : Word) : State := { s with arg1 := v }

/-- PA_LEN: bits [8:0] of the word written (R32). -/
def State.setPaLen (s : State) (v : Word) : State := { s with paLen := v.setWidth 9 }

/-- PB_LEN: bits [8:0] of the word written (R32). -/
def State.setPbLen (s : State) (v : Word) : State := { s with pbLen := v.setWidth 9 }

/-- CTRL.IRQ_EN. -/
def State.setIrqEn (s : State) (b : Bool) : State := { s with irqEn := b }

/-- STATUS.OVR set by a dropped CMD write (R122). -/
def State.overrun (s : State) : State := { s with ovr := true }

/-- A write of STATUS: DONE, ERR and OVR are cleared where the written bit is 1 (R27). -/
def State.clearStatus (s : State) (v : Word) : State :=
  { s with
    done := s.done && !v.getLsbD 1
    err := s.err && !v.getLsbD 2
    ovr := s.ovr && !v.getLsbD 3 }

/-- The soft reset (R382): every register and the hidden state as after power-on. PA, PB and INBUF keep
their bytes; those of PR, BB and CW are beyond their lengths and so unspecified (R383). The model's own
fields go on. -/
def State.softReset (s : State) : State :=
  { State.reset with
    mem := ((s.mem.setWindow (Window.base .pr) (Window.size .pr) []).setWindow
      (Window.base .bb) (Window.size .bb) []).setWindow (Window.base .cw) (Window.size .cw) []
    prGen := s.prGen + 1
    bbGen := s.bbGen + 1
    cwGen := s.cwGen + 1
    draws := s.draws
    turns := s.turns
    resp := s.resp }

end Sys2Proof.Machine
end

