-- ==== Sys2Proof/Machine/Operands.lean ====
section
/-! DEFINITION. The operand forms of the commands: operand fields and their ranges (spec/30_encoding.md R93,
R94), level codes (spec/43_tables_bitbuf.md R192), polynomial operands (spec/42_poly_rs.md R162) and INBUF
ranges (spec/40_control.md R130). -/

namespace Sys2Proof.Machine

/-- An operand field lies in lo..hi (R93). -/
def fieldIn (lo hi : Nat) (f : Byte) : Bool := decide (lo ≤ f.toNat) && decide (f.toNat ≤ hi)

/-- A command whose operand fields are legal has the outcome `r`; otherwise it fails with RangeError before
any other check (R94 step 3, R125). -/
def ifLegal (legal : Bool) (r : Except ErrorCode State) : Except ErrorCode State :=
  if legal then r else .error .rangeError

/-- The four error-correction levels. -/
inductive Level where
  | L
  | M
  | Q
  | H
  deriving DecidableEq, Repr

/-- The level of a code: M 0, L 1, H 2, Q 3 (R192). -/
def levelOf (code : BitVec 2) : Level :=
  match code.toNat with
  | 0 => .M
  | 1 => .L
  | 2 => .H
  | _ => .Q

/-- A polynomial length a command may use: 1..256 (R162). -/
def polyLenOk (len : BitVec 9) : Bool := decide (1 ≤ len.toNat) && decide (len.toNat ≤ Config.polyMax)

/-- The operand polynomial A = [PA[0], ..., PA[PA_LEN - 1]] (R162). -/
def State.polyA (s : State) : List Byte := s.ramBytes (Window.base .pa) s.paLen.toNat

/-- The operand polynomial B = [PB[0], ..., PB[PB_LEN - 1]] (R162). -/
def State.polyB (s : State) : List Byte := s.ramBytes (Window.base .pb) s.pbLen.toNat

/-- The range (ARG0, ARG1) of offset and length lies in INBUF, the sum being unbounded (R130;
spec/44_symbol_builder.md R226, spec/47_crc16.md R334). -/
def inbufRangeOk (off len : Word) : Bool :=
  decide (off.toNat ≤ Config.inbufSize - 1) && decide (off.toNat + len.toNat ≤ Config.inbufSize)

/-- `n` bytes of INBUF from index `off` on. -/
def State.inbufBytes (s : State) (off n : Nat) : List Byte := s.ramBytes (Window.base .inbuf + off) n

/-- The segments held: the first SEG_COUNT entries of the list (spec/44_symbol_builder.md R225). -/
def State.segList (s : State) : List Segment := s.segs.toList.take s.segCount.toNat

/-- The bytes of a segment, read from INBUF (R225). -/
def State.segBytes (s : State) (g : Segment) : List Byte := s.inbufBytes g.off.toNat g.len.toNat

end Sys2Proof.Machine
end

