-- ==== Sys2Proof/Machine/BitBuf.lean ====
section
/-! DEFINITION. The bit buffer (spec/43_tables_bitbuf.md R205) and the commands BB_CLEAR, BB_PUT, BB_PUTBIT. -/

namespace Sys2Proof.Machine

/-- The low `n` bits of a value, most significant first (R205, put). -/
def bitsOf (v n : Nat) : List Bool := (List.range n).reverse.map v.testBit

/-- appendBit(b): the primitive append of one bit (R205). -/
def appendBit (b : Bool) (s : State) : Except ErrorCode State :=
  let p := s.bbLen.toNat
  if Config.bbBits ≤ p then .error .bufferOverflow
  else
    let old := if p % 8 = 0 then 0 else s.ramByte (Window.base .bb + p / 8)
    .ok (s.storeBit (p / 8) (old ||| BitVec.ofNat 8 (b.toNat <<< (7 - p % 8))) (p + 1))

/-- Appends bits one at a time. -/
def appendBits : List Bool → State → Except ErrorCode State
  | [], s => .ok s
  | b :: bs, s =>
    match appendBit b s with
    | .ok t => appendBits bs t
    | .error c => .error c

/-- The outcome of BB_PUT for a legal number of bits: the room is checked before any bit is appended (R207). -/
def bbPutOutcome (nbits : Nat) (s : State) : Except ErrorCode State :=
  if Config.bbBits < s.bbLen.toNat + nbits then .error .bufferOverflow
  else appendBits (bitsOf s.arg0.toNat nbits) s

/-- Bit number `p` of the buffer: bit 7 - (p mod 8) of byte BB[p / 8] (R205). -/
def State.bbBit (s : State) (p : Nat) : Bool :=
  (s.ramByte (Window.base .bb + p / 8)).getLsbD (7 - p % 8)

/-- BB_CLEAR (R206). -/
def execBbClear (s : State) : Host.Outcome State Fault Refusal := complete s (.ok s.clearBb)

/-- BB_PUT (R207). -/
def execBbPut (nbits : Byte) (s : State) : Host.Outcome State Fault Refusal :=
  complete s (ifLegal (fieldIn 0 32 nbits) (bbPutOutcome nbits.toNat s))

/-- BB_PUTBIT (R208). -/
def execBbPutBit (bit : Byte) (s : State) : Host.Outcome State Fault Refusal :=
  complete s (ifLegal (fieldIn 0 1 bit) (appendBit (bit == 1) s))

end Sys2Proof.Machine
end

