-- ==== Sys2Proof/Machine/Poly.lean ====
section
/-! DEFINITION. Polynomials over GF(256) and Reed-Solomon codewords (spec/42_poly_rs.md): coefficient lists,
highest degree first (R160), and the commands POLY_MUL, POLY_MOD, RS_GEN, RS_ECC. -/

namespace Sys2Proof.Machine

/-- A polynomial: its coefficients, highest degree first (R160). -/
abbrev Poly := List Byte

/-- norm(P): leading zeros stripped, [0] for the zero polynomial (R161). -/
def polyNorm (p : Poly) : Poly :=
  match p.dropWhile (fun c => c == 0) with
  | [] => [0]
  | q => q

/-- isZero(P) (R161). -/
def isZero (p : Poly) : Bool := polyNorm p == [0]

/-- `acc` with the coefficients `row` added from index `i` on. -/
def xorAt : Nat → Poly → Poly → Poly
  | _, _, [] => []
  | 0, [], acc => acc
  | 0, r :: row, a :: acc => (a ^^^ r) :: xorAt 0 row acc
  | i + 1, row, a :: acc => a :: xorAt i row acc

/-- The loops of R163: for each coefficient of P from index `i` on, its multiple of Q added to R. -/
def pmulLoop (q : Poly) : Nat → Poly → Poly → Poly
  | _, [], r => r
  | i, c :: p, r => pmulLoop q (i + 1) p (xorAt i (q.map (gfMul c)) r)

/-- pmul(P, Q) (R163). -/
def pmul (p q : Poly) : Poly :=
  let p := polyNorm p
  let q := polyNorm q
  if isZero p || isZero q then [0]
  else pmulLoop q 0 p (List.replicate (p.length + q.length - 1) 0)

/-- One pass of the division loop of R164, on normalized P and D. -/
def pmodPass (p d : Poly) : Poly :=
  polyNorm (xorAt 0 (d.map (fun c => gfMul c (gfQuot (p.headD 0) (d.headD 0)))) p)

/-- The division loop of R164, at most `fuel` passes; each pass shortens P. -/
def pmodLoop (d : Poly) : Nat → Poly → Poly
  | 0, p => p
  | fuel + 1, p =>
    if !isZero p && decide (d.length ≤ p.length) then pmodLoop d fuel (pmodPass p d) else p

/-- pmod(P, D); InvalidArgument for a zero divisor (R164). -/
def pmod (p d : Poly) : Except ErrorCode Poly :=
  let p := polyNorm p
  let d := polyNorm d
  if isZero d then .error .invalidArgument else .ok (pmodLoop d p.length p)

/-- gen(t) (R165). -/
def gen : Nat → Poly
  | 0 => [1]
  | t + 1 => pmul (gen t) [1, gfExpTable (t % 255)]

/-- rsecc(data, t): exactly t bytes (R166). -/
def rsecc (data : List Byte) (t : Nat) : Except ErrorCode (List Byte) :=
  match pmod (data ++ List.replicate t 0) (gen t) with
  | .error c => .error c
  | .ok r =>
    if isZero r then .ok (List.replicate t 0) else .ok (List.replicate (t - r.length) 0 ++ r)

/-- The outcome of a command whose result polynomial goes to PR and PR_LEN. -/
def resPoly (s : State) (r : Except ErrorCode Poly) : Except ErrorCode State :=
  match r with
  | .ok p => .ok (s.storePr p)
  | .error c => .error c

/-- The outcome of POLY_MUL (R167). -/
def polyMulOutcome (s : State) : Except ErrorCode State :=
  if !polyLenOk s.paLen then .error .lengthError
  else if !polyLenOk s.pbLen then .error .lengthError
  else
    let r := pmul s.polyA s.polyB
    if Config.polyMax < r.length then .error .lengthError else resPoly s (.ok r)

/-- The outcome of POLY_MOD (R168). -/
def polyModOutcome (s : State) : Except ErrorCode State :=
  if !polyLenOk s.paLen then .error .lengthError
  else if !polyLenOk s.pbLen then .error .lengthError
  else resPoly s (pmod s.polyA s.polyB)

/-- The outcome of RS_ECC for a legal `t` (R170). -/
def rsEccOutcome (t : Byte) (s : State) : Except ErrorCode State :=
  if !polyLenOk s.paLen then .error .lengthError else resPoly s (rsecc s.polyA t.toNat)

/-- POLY_MUL (R167). -/
def execPolyMul (s : State) : Host.Outcome State Fault Refusal := complete s (polyMulOutcome s)

/-- POLY_MOD (R168). -/
def execPolyMod (s : State) : Host.Outcome State Fault Refusal := complete s (polyModOutcome s)

/-- RS_GEN (R169). -/
def execRsGen (t : Byte) (s : State) : Host.Outcome State Fault Refusal :=
  complete s (resPoly s (.ok (gen t.toNat)))

/-- RS_ECC (R170). -/
def execRsEcc (t : Byte) (s : State) : Host.Outcome State Fault Refusal :=
  complete s (ifLegal (fieldIn 1 255 t) (rsEccOutcome t s))

end Sys2Proof.Machine
end

