-- ==== Sys2Proof/Machine/Codewords.lean ====
section
/-! DEFINITION. Version selection and codeword construction (spec/44_symbol_builder.md R227-R237): from the
segments' bytes to the codeword sequence, and the cache of it in BB and CW. -/

namespace Sys2Proof.Machine

/-- The bit length of a segment of `len` bytes at version `v` (R227). -/
def segBitLen (v len : Nat) : Nat := 4 + countWidth v + 8 * len

/-- bitlen(segs, v), from the segments' byte lengths (R227). -/
def bitLen (lens : List Nat) (v : Nat) : Nat := (lens.map (segBitLen v)).sum

/-- selectVersion: the least version 1..40 the data fit, if there is one (R228). R229's corner case says that
empty segments alone give version 1; by the pseudocode of R227 and R228, which this follows, seven or eight of
them at level H give version 2 (DESIGN CHOICE, log entry 21). -/
def selectVersion (lens : List Nat) (lv : Level) : Option Nat :=
  (List.range' 1 40).find? (fun v => decide (bitLen lens v ≤ 8 * dataCount v lv))

/-- The bits of a byte string, each byte most significant bit first (R205). -/
def bytesToBits (bytes : List Byte) : List Bool := bytes.flatMap (fun b => bitsOf b.toNat 8)

/-- Eight bits as a byte, the first the most significant (R205). -/
def bitsToByte (bits : List Bool) : Byte :=
  BitVec.ofNat 8 (bits.foldl (fun n b => 2 * n + b.toNat) 0)

/-- The first `n` bytes of a bit sequence (R205). -/
def bitsToBytes : Nat → List Bool → List Byte
  | 0, _ => []
  | n + 1, bits => bitsToByte (bits.take 8) :: bitsToBytes n (bits.drop 8)

/-- The bits of one segment: mode indicator 4, count, bytes (R230 step 1). -/
def segBits (v : Nat) (seg : List Byte) : List Bool :=
  bitsOf 4 4 ++ bitsOf seg.length (countWidth v) ++ bytesToBits seg

/-- Step 2 of R230: a 4-bit terminator of zeros where it fits. -/
def terminated (cap : Nat) (bits : List Bool) : List Bool :=
  if bits.length + 4 ≤ cap then bits ++ bitsOf 0 4 else bits

/-- Step 3 of R230: zero bits up to a byte boundary. -/
def byteAligned (bits : List Bool) : List Bool :=
  bits ++ List.replicate ((8 - bits.length % 8) % 8) false

/-- Step 4 of R230: the pad byte number `k`. -/
def padByte (k : Nat) : Byte := if k % 2 = 0 then 0xEC else 0x11

/-- buildData: the DC(v, lv) data codewords of the segments' bytes (R230). Only the segments' lengths decide
whether they fit, so after an automatic QR_SELVER this never overflows, as spec/60_exceptions.md R353 says and
against spec/70_reset_and_hazards.md R393 (DESIGN CHOICE, log entry 20). -/
def buildData (segs : List (List Byte)) (v : Nat) (lv : Level) : Except ErrorCode (List Byte) :=
  let cap := 8 * dataCount v lv
  if cap < bitLen (segs.map List.length) v then .error .codeLengthOverflow
  else
    let bits := byteAligned (terminated cap (segs.flatMap (segBits v)))
    let k := bits.length / 8
    .ok (bitsToBytes k bits ++ (List.range (dataCount v lv - k)).map padByte)

/-- split(D, B): each block in order takes its `dataCount` bytes (R233). -/
def splitBlocks : List Byte → List (Nat × Nat) → List (List Byte)
  | _, [] => []
  | d, (_, n) :: bs => d.take n :: splitBlocks (d.drop n) bs

/-- The ECC codewords of each block (R234). -/
def blockEccs : List (List Byte) → List (Nat × Nat) → Except ErrorCode (List (List Byte))
  | data :: ds, (t, d) :: bs =>
    match rsecc data (t - d) with
    | .error c => .error c
    | .ok e =>
      match blockEccs ds bs with
      | .error c => .error c
      | .ok es => .ok (e :: es)
  | _, _ => .ok []

/-- interleave: column by column, a block with no byte in the column skipped (R235). -/
def interleave (xs : List (List Byte)) : List Byte :=
  (List.range ((xs.map List.length).foldl max 0)).flatMap (fun i => xs.filterMap (fun x => x[i]?))

/-- codewordSequence(D, B) (R237). -/
def codewordSequence (d : List Byte) (blocks : List (Nat × Nat)) : Except ErrorCode (List Byte) :=
  let data := splitBlocks d blocks
  match blockEccs data blocks with
  | .error c => .error c
  | .ok eccs => .ok (interleave data ++ interleave eccs)

/-- buildCodewords(): the cache fill, from INBUF as it is now (R232). -/
def buildCodewords (s : State) : Except ErrorCode State :=
  let v := s.qrVer.toNat
  let lv := levelOf s.cfg.ecc
  match buildData (s.segList.map s.segBytes) v lv with
  | .error c => .error c
  | .ok d =>
    match codewordSequence d (blockList v lv) with
    | .error c => .error c
    | .ok c => .ok (s.storeCodewords d c (dataCount v lv) (totalCount v lv))

/-- ensureCW(): a build only if the cache is not valid (R238). -/
def ensureCw (s : State) : Except ErrorCode State := if s.cwValid then .ok s else buildCodewords s

/-- CW[0 .. TC(v) - 1] for the version in QR_VER (spec/45_matrix_layout.md R273). -/
def State.codewords (s : State) : List Byte :=
  s.ramBytes (Window.base .cw) (totalCount s.qrVer.toNat (levelOf s.cfg.ecc))

end Sys2Proof.Machine
end

