-- ==== Sys2Proof/Machine/Layout.lean ====
section
/-! DEFINITION. The module-matrix layout (spec/45_matrix_layout.md R260-R271), the BCH words (R265, R268), the
mask predicates (spec/46_mask_penalty.md R300), and the commands QR_FMTBCH and QR_VERBCH. -/

namespace Sys2Proof.Machine

/-! ### BCH words -/

/-- The number of bits of a number, 0 for 0 (R265). -/
def numBits (x : Nat) : Nat := if x = 0 then 0 else Nat.log2 x + 1

/-- The shift-reduce loop of R265 and R268, at most `fuel` passes; each pass shortens `d`. -/
def bchReduce (g : Nat) : Nat → Nat → Nat
  | 0, d => d
  | fuel + 1, d =>
    if numBits g ≤ numBits d then bchReduce g fuel (d ^^^ (g <<< (numBits d - numBits g))) else d

/-- bchFormat(e, m): the 15 format bits (R265). -/
def bchFormat (e : BitVec 2) (m : BitVec 3) : Nat :=
  let data := (e.toNat <<< 3) ||| m.toNat
  ((data <<< 10) ||| bchReduce 0x537 (numBits (data <<< 10)) (data <<< 10)) ^^^ 21522

/-- bchVersion(v): the 18 version bits (R268). -/
def bchVersion (v : Nat) : Nat := (v <<< 12) ||| bchReduce 0x1F25 (numBits (v <<< 12)) (v <<< 12)

/-! ### Mask predicates -/

/-- maskFn(m, i, j): true means the data bit at row `i`, column `j` is flipped (R300). -/
def maskFn (m : BitVec 3) (i j : Nat) : Bool :=
  match m.toNat with
  | 0 => (i + j) % 2 == 0
  | 1 => i % 2 == 0
  | 2 => j % 3 == 0
  | 3 => (i + j) % 3 == 0
  | 4 => (i / 2 + j / 3) % 2 == 0
  | 5 => (i * j) % 2 + (i * j) % 3 == 0
  | 6 => ((i * j) % 2 + (i * j) % 3) % 2 == 0
  | _ => ((i * j) % 3 + (i + j) % 2) % 2 == 0

/-! ### Function patterns -/

/-- The module count of a version (R261). -/
def moduleCount (v : Nat) : Nat := 4 * v + 17

/-- The n by n matrix with every cell unset (R261). -/
def emptyGrid (n : Nat) : Grid := List.replicate n (List.replicate n .unset)

/-- A dark cell for 1, a light cell for 0 (R11). -/
def cellOf (b : Bool) : QrCell := if b then .dark else .light

/-- The cell at (r, c) of a finder pattern and its separator, r and c from -1 to 7 (R262). -/
def finderCell (r c : Int) : QrCell :=
  cellOf (decide ((0 ≤ r ∧ r ≤ 6 ∧ (c = 0 ∨ c = 6)) ∨ (0 ≤ c ∧ c ≤ 6 ∧ (r = 0 ∨ r = 6)) ∨
    (2 ≤ r ∧ r ≤ 4 ∧ 2 ≤ c ∧ c ≤ 4)))

/-- All pairs of two lists, the first component outermost. -/
def pairs (xs ys : List Int) : List (Int × Int) := xs.flatMap (fun x => ys.map (fun y => (x, y)))

/-- Sets the cell at (r, c) if it lies in the n by n matrix. -/
def setClipped (n : Nat) (g : Grid) (r c : Int) (m : QrCell) : Grid :=
  if 0 ≤ r ∧ r < n ∧ 0 ≤ c ∧ c < n then Grid.set g r.toNat c.toNat m else g

/-- -1, 0, ..., 7. -/
def finderSpan : List Int := [-1, 0, 1, 2, 3, 4, 5, 6, 7]

/-- One finder pattern with its separator at the corner origin (r0, c0) (R262). -/
def placeFinder (n : Nat) (g : Grid) (r0 c0 : Nat) : Grid :=
  (pairs finderSpan finderSpan).foldl
    (fun g p => setClipped n g (r0 + p.1) (c0 + p.2) (finderCell p.1 p.2)) g

/-- The three finder patterns (R262). -/
def placeFinders (n : Nat) (g : Grid) : Grid :=
  placeFinder n (placeFinder n (placeFinder n g 0 0) (n - 7) 0) 0 (n - 7)

/-- -2, -1, 0, 1, 2. -/
def alignSpan : List Int := [-2, -1, 0, 1, 2]

/-- The cell at (dr, dc) from the center of an alignment pattern (R263). -/
def alignCell (dr dc : Int) : QrCell :=
  cellOf (decide (dr.natAbs = 2 ∨ dc.natAbs = 2 ∨ (dr = 0 ∧ dc = 0)))

/-- One alignment pattern at (r, c), skipped whole if its center is already set (R263). -/
def placeAlign (n : Nat) (g : Grid) (r c : Nat) : Grid :=
  if Grid.get g r c = .unset then
    (pairs alignSpan alignSpan).foldl
      (fun g p => setClipped n g (r + p.1) (c + p.2) (alignCell p.1 p.2)) g
  else g

/-- The alignment patterns of a version (R263). -/
def placeAlignment (v : Nat) (g : Grid) : Grid :=
  (alignCenters v).foldl
    (fun g r => (alignCenters v).foldl (fun g c => placeAlign (moduleCount v) g r c) g) g

/-- Sets the cell (r, c) if it is unset. -/
def setIfUnset (g : Grid) (r c : Nat) (m : QrCell) : Grid :=
  if Grid.get g r c = .unset then Grid.set g r c m else g

/-- The timing patterns along column 6 and row 6 (R264). -/
def placeTiming (n : Nat) (g : Grid) : Grid :=
  (List.range n).foldl
    (fun g k => setIfUnset (setIfUnset g k 6 (cellOf (k % 2 == 0))) 6 k (cellOf (k % 2 == 0))) g

/-- Where bit `i` of the format word stands in copy A (R266). -/
def formatCellA (i : Nat) : Nat × Nat :=
  if i ≤ 5 then (i, 8) else if i = 6 then (7, 8) else if i = 7 then (8, 8) else if i = 8 then (8, 7)
  else (8, 14 - i)

/-- Where bit `i` of the format word stands in copy B (R266). -/
def formatCellB (n i : Nat) : Nat × Nat := if i ≤ 7 then (8, n - 1 - i) else (n - 15 + i, 8)

/-- Both copies of the format word `f` (R266). -/
def placeFormat (n : Nat) (g : Grid) (f : Nat) : Grid :=
  (List.range 15).foldl
    (fun g i =>
      let m := cellOf (f.testBit i)
      let a := formatCellA i
      let b := formatCellB n i
      Grid.set (Grid.set g a.1 a.2 m) b.1 b.2 m) g

/-- Both copies of the version word `w` (R269). -/
def placeVersion (n : Nat) (g : Grid) (w : Nat) : Grid :=
  (List.range 18).foldl
    (fun g i =>
      let m := cellOf (w.testBit i)
      Grid.set (Grid.set g (i / 3) (n - 11 + i % 3) m) (n - 11 + i % 3) (i / 3) m) g

/-- The matrix before the data are mapped: every function pattern placed, the rest unset (R260). -/
def functionPatterns (v : Nat) (e : BitVec 2) (m : BitVec 3) : Grid :=
  let n := moduleCount v
  let g := placeTiming n (placeAlignment v (placeFinders n (emptyGrid n)))
  let g := Grid.set (placeFormat n g (bchFormat e m)) (n - 8) 8 .dark
  if 7 ≤ v then placeVersion n g (bchVersion v) else g

/-! ### Data mapping -/

/-- The right columns of the column pairs in the order of R270, each with its direction (true: upwards);
column index 6 is stepped past. -/
def zigzagColumns : Nat → Nat → Bool → List (Nat × Bool)
  | 0, _, _ => []
  | fuel + 1, col, up =>
    if col = 0 then []
    else
      let c := if col = 6 then 5 else col
      (c, up) :: zigzagColumns fuel (c - 2) (!up)

/-- The cells in the order of R270. -/
def zigzag (n : Nat) : List (Nat × Nat) :=
  (zigzagColumns n (n - 1) true).flatMap (fun q =>
    (if q.2 then (List.range n).reverse else List.range n).flatMap (fun r => [(r, q.1), (r, q.1 - 1)]))

/-- One visited cell of mapData: an unset cell takes the next codeword bit, or 0 when none is left (R271),
flipped where the mask says so (R270). -/
def mapCell (m : BitVec 3) (st : Grid × List Bool) (cell : Nat × Nat) : Grid × List Bool :=
  if Grid.get st.1 cell.1 cell.2 = .unset then
    (Grid.set st.1 cell.1 cell.2 (cellOf (st.2.headD false ^^ maskFn m cell.1 cell.2)), st.2.tail)
  else st

/-- mapData(M, C, m) (R270). -/
def mapData (n : Nat) (g : Grid) (c : List Byte) (m : BitVec 3) : Grid :=
  ((zigzag n).foldl (mapCell m) (g, bytesToBits c)).1

/-- layout(v, e, m, C) (R260). -/
def layout (v : Nat) (e : BitVec 2) (m : BitVec 3) (c : List Byte) : Grid :=
  mapData (moduleCount v) (functionPatterns v e m) c m

/-! ### Commands -/

/-- QR_FMTBCH (R274). -/
def execQrFmtBch (ecc mask : Byte) (s : State) : Host.Outcome State Fault Refusal :=
  complete s (ifLegal (fieldIn 0 3 ecc && fieldIn 0 7 mask)
    (.ok (s.setRes0 (BitVec.ofNat 32 (bchFormat (ecc.setWidth 2) (mask.setWidth 3))))))

/-- QR_VERBCH (R275). -/
def execQrVerBch (ver : Byte) (s : State) : Host.Outcome State Fault Refusal :=
  complete s (ifLegal (fieldIn 0 63 ver) (.ok (s.setRes0 (BitVec.ofNat 32 (bchVersion ver.toNat)))))

end Sys2Proof.Machine
end

