-- ==== Sys2Proof/Machine/Penalty.lean ====
section
/-! DEFINITION. Penalty scoring and mask selection (spec/46_mask_penalty.md R301-R305, R310). -/

namespace Sys2Proof.Machine

/-- The columns of a square matrix, from left to right. -/
def columns (g : Grid) : Grid :=
  (List.range g.length).map (fun c => g.map (fun row => row.getD c .unset))

/-- The lines of a matrix: its rows and its columns. -/
def gridLines (g : Grid) : Grid := g ++ columns g

/-- The lengths of the maximal runs of equal cells, given that the current run of `x` has length `k`. -/
def runsFrom (x : QrCell) (k : Nat) : List QrCell → List Nat
  | [] => [k]
  | y :: ys => if y = x then runsFrom x (k + 1) ys else k :: runsFrom y 1 ys

/-- The lengths of a line's maximal runs of equal cells (R301). -/
def runLengths : List QrCell → List Nat
  | [] => []
  | x :: xs => runsFrom x 1 xs

/-- What a run of length `k` adds (R301). -/
def runPenalty (k : Nat) : Nat := if 5 ≤ k then 3 + (k - 5) else 0

/-- P1, the runs (R301). -/
def penalty1 (g : Grid) : Nat :=
  ((gridLines g).map (fun l => ((runLengths l).map runPenalty).sum)).sum

/-- The 2 by 2 blocks of one colour in two adjacent rows. -/
def rowBlocks : List QrCell → List QrCell → Nat
  | a :: b :: top, c :: d :: bot =>
    (if a = b ∧ a = c ∧ a = d then 1 else 0) + rowBlocks (b :: top) (d :: bot)
  | _, _ => 0

/-- The 2 by 2 blocks of one colour. -/
def gridBlocks : Grid → Nat
  | r1 :: r2 :: rows => rowBlocks r1 r2 + gridBlocks (r2 :: rows)
  | _ => 0

/-- P2, the blocks (R302). -/
def penalty2 (g : Grid) : Nat := 3 * gridBlocks g

/-- The pattern of R303. -/
def finderLike : List QrCell := [.dark, .light, .dark, .dark, .dark, .light, .dark]

/-- How many start positions of a line hold the pattern (R303). -/
def finderCount : List QrCell → Nat
  | [] => 0
  | x :: xs => (if (x :: xs).take 7 = finderLike then 1 else 0) + finderCount xs

/-- P3, the finder-like patterns (R303). -/
def penalty3 (g : Grid) : Nat := 40 * ((gridLines g).map finderCount).sum

/-- The dark cells of a matrix. -/
def darkCount (g : Grid) : Nat := (g.map (fun row => row.count .dark)).sum

/-- P4, the balance, in exact integers (R304). -/
def penalty4 (g : Grid) : Nat :=
  let n2 := g.length * g.length
  10 * ((((20 * darkCount g : Nat) : Int) - ((10 * n2 : Nat) : Int)).natAbs / n2)

/-- score(M) (R305). -/
def score (g : Grid) : Nat := penalty1 g + penalty2 g + penalty3 g + penalty4 g

/-- The scores of the eight trial layouts, each a fresh matrix (R310). -/
def trialScores (v : Nat) (e : BitVec 2) (c : List Byte) : List Nat :=
  (List.range 8).map (fun k => score (layout v e (BitVec.ofNat 3 k) c))

/-- The loop of R310 over the scores from index `k` on: a strictly lower score replaces the best one. -/
def bestFrom (best bestScore : Nat) : Nat → List Nat → Nat
  | _, [] => best
  | k, x :: xs => if x < bestScore then bestFrom k x (k + 1) xs else bestFrom best bestScore (k + 1) xs

/-- The lowest-scoring index, the least among equals (R310). -/
def bestMask : List Nat → Nat
  | [] => 0
  | x :: xs => bestFrom 0 x 1 xs

/-- PENALTY and PEN_R1 to PEN_R4 of a matrix (R306, R311). -/
def State.storeScoreOf (s : State) (g : Grid) : State :=
  s.storePenalty (score g) (penalty1 g) (penalty2 g) (penalty3 g) (penalty4 g)

end Sys2Proof.Machine
end

