-- ==== Sys2Proof/Machine/Builder.lean ====
section
/-! DEFINITION. The symbol builder's commands (spec/44_symbol_builder.md R221-R239, spec/45_matrix_layout.md
R273, spec/46_mask_penalty.md R306-R312). Each command is an outcome function, so that QR_MAKE can perform
the others' (R239); a function answers the error of the first failing check (spec/40_control.md R125). -/

namespace Sys2Proof.Machine

/-- The states VersionChosen, MatrixLaidOut, MaskChosen, in which a layout is possible (R221). -/
def QrState.hasVersion : QrState → Bool
  | .versionChosen | .matrixLaidOut | .maskChosen => true
  | .empty | .dataAppended | .matrixFinal => false

/-- QR_CLEAR's outcome (R222). -/
def clearOutcome (s : State) : Except ErrorCode State :=
  .ok (((s.invalidate.setVersion 0).clearSegs).setQrState .empty)

/-- QR_CONFIG's outcome for legal fields (R224). -/
def configOutcome (mreq ecc vreq : Byte) (s : State) : Except ErrorCode State :=
  match s.qrState with
  | .empty | .dataAppended => .ok (s.setCfg ⟨vreq.setWidth 6, ecc.setWidth 2, mreq.setWidth 4⟩)
  | .versionChosen | .matrixLaidOut | .maskChosen | .matrixFinal => .error .sequenceError

/-- QR_APPEND's outcome (R226). -/
def appendOutcome (s : State) : Except ErrorCode State :=
  if s.qrState = .matrixFinal then .error .sequenceError
  else if !inbufRangeOk s.arg0 s.arg1 then .error .rangeError
  else if Config.maxSegs ≤ s.segCount.toNat then .error .bufferOverflow
  else
    .ok ((((s.addSeg ⟨s.arg0.setWidth 12, s.arg1.setWidth 13⟩).invalidate).setVersion 0).setQrState
      .dataAppended)

/-- QR_SELVER's writes for the version `v` (R229). -/
def State.selectedVersion (s : State) (v : BitVec 6) : State :=
  ((s.invalidate).setVersion v).setQrState .versionChosen

/-- QR_SELVER's outcome (R229): a fixed version is taken without a fit check. -/
def selVerOutcome (s : State) : Except ErrorCode State :=
  if s.qrState = .dataAppended ∨ s.qrState.hasVersion then
    if s.cfg.vreq = 0 then
      match selectVersion (s.segList.map (fun g => g.len.toNat)) (levelOf s.cfg.ecc) with
      | none => .error .dataTooLong
      | some v => .ok (s.selectedVersion (BitVec.ofNat 6 v))
    else .ok (s.selectedVersion s.cfg.vreq)
  else .error .sequenceError

/-- QR_CODEWORDS' outcome: always a build (R238). -/
def codewordsOutcome (s : State) : Except ErrorCode State :=
  if s.qrState.hasVersion then buildCodewords s else .error .sequenceError

/-- The layout of the held codewords with a mask (R273). -/
def State.layoutOf (s : State) (mask : BitVec 3) : Grid :=
  layout s.qrVer.toNat s.cfg.ecc mask s.codewords

/-- A layout put into MATRIX, with its mask and test flag (R273). -/
def State.layOut (s : State) (mask : BitVec 3) (test : Bool) : State :=
  s.storeMatrix (s.layoutOf mask) (moduleCount s.qrVer.toNat) mask test

/-- QR_LAYOUT's outcome for legal fields (spec/45_matrix_layout.md R273). -/
def layoutOutcome (test : Bool) (mask : BitVec 3) (s : State) : Except ErrorCode State :=
  if s.qrState.hasVersion then
    match ensureCw s with
    | .error c => .error c
    | .ok t => .ok ((t.layOut mask test).setQrState (if test then .matrixLaidOut else .matrixFinal))
  else .error .sequenceError

/-- The n by n cells MATRIX shows, n = QR_SIZE (spec/46_mask_penalty.md R306). -/
def State.shownGrid (s : State) : Grid :=
  (List.range s.qrSize.toNat).map (fun r => (List.range s.qrSize.toNat).map (fun c => Grid.get s.matrix r c))

/-- QR_PENALTY's outcome (R306). -/
def penaltyOutcome (s : State) : Except ErrorCode State :=
  if s.qrSize = 0 then .error .sequenceError else .ok (s.storeScoreOf s.shownGrid)

/-- The automatic selection of R311, on the state whose codewords are built: the trials' scores, the
winner's penalty, and the last trial, mask 7, left in MATRIX. -/
def State.selectAuto (s : State) : State :=
  let scores := trialScores s.qrVer.toNat s.cfg.ecc s.codewords
  let best := BitVec.ofNat 3 (bestMask scores)
  (((s.storeScores scores).storeScoreOf (s.layoutOf best)).layOut 7 true).choose best

/-- QR_MASKSEL's outcome (R311). -/
def maskSelOutcome (s : State) : Except ErrorCode State :=
  if s.qrState.hasVersion then
    if s.cfg.mreq = 8 then
      match ensureCw s with
      | .error c => .error c
      | .ok t => .ok (t.selectAuto.setQrState .maskChosen)
    else .ok ((s.choose (s.cfg.mreq.setWidth 3)).setQrState .maskChosen)
  else .error .sequenceError

/-- QR_FINAL's outcome (R312). -/
def finalOutcome (s : State) : Except ErrorCode State :=
  if s.qrState.hasVersion && s.chosenValid then
    match ensureCw s with
    | .error c => .error c
    | .ok t => .ok ((t.layOut t.chosen false).setQrState .matrixFinal)
  else .error .sequenceError

/-- Performs a command on the outcome of the one before it, if the condition holds there (R239). -/
def thenIf (r : Except ErrorCode State) (cond : State → Bool) (f : State → Except ErrorCode State) :
    Except ErrorCode State :=
  match r with
  | .error c => .error c
  | .ok s => if cond s then f s else .ok s

/-- QR_MAKE's outcome (R239): the first error aborts the whole command. -/
def makeOutcome (s : State) : Except ErrorCode State :=
  if s.qrState = .dataAppended ∨ s.qrState.hasVersion then
    thenIf (thenIf (thenIf (thenIf (.ok s)
      (fun t => decide (t.qrState = .dataAppended)) selVerOutcome)
      (fun t => !t.cwValid) codewordsOutcome)
      (fun t => !t.chosenValid) maskSelOutcome)
      (fun _ => true) finalOutcome
  else .error .sequenceError

/-! ### Meanings -/

/-- QR_CLEAR (R222). -/
def execQrClear (s : State) : Host.Outcome State Fault Refusal := complete s (clearOutcome s)

/-- QR_CONFIG (R224). -/
def execQrConfig (mreq ecc vreq : Byte) (s : State) : Host.Outcome State Fault Refusal :=
  complete s (ifLegal (fieldIn 0 8 mreq && fieldIn 0 3 ecc && fieldIn 0 40 vreq)
    (configOutcome mreq ecc vreq s))

/-- QR_APPEND (R226). -/
def execQrAppend (s : State) : Host.Outcome State Fault Refusal := complete s (appendOutcome s)

/-- QR_SELVER (R229). -/
def execQrSelVer (s : State) : Host.Outcome State Fault Refusal := complete s (selVerOutcome s)

/-- QR_CODEWORDS (R238). -/
def execQrCodewords (s : State) : Host.Outcome State Fault Refusal := complete s (codewordsOutcome s)

/-- QR_LAYOUT (spec/45_matrix_layout.md R273). -/
def execQrLayout (test mask : Byte) (s : State) : Host.Outcome State Fault Refusal :=
  complete s (ifLegal (fieldIn 0 1 test && fieldIn 0 7 mask)
    (layoutOutcome (test == 1) (mask.setWidth 3) s))

/-- QR_PENALTY (spec/46_mask_penalty.md R306). -/
def execQrPenalty (s : State) : Host.Outcome State Fault Refusal := complete s (penaltyOutcome s)

/-- QR_MASKSEL (spec/46_mask_penalty.md R311). -/
def execQrMaskSel (s : State) : Host.Outcome State Fault Refusal := complete s (maskSelOutcome s)

/-- QR_FINAL (spec/46_mask_penalty.md R312). -/
def execQrFinal (s : State) : Host.Outcome State Fault Refusal := complete s (finalOutcome s)

/-- QR_MAKE (R239). -/
def execQrMake (s : State) : Host.Outcome State Fault Refusal := complete s (makeOutcome s)

end Sys2Proof.Machine
end

