-- ==== Sys2Proof/Machine/Control.lean ====
section
/-! DEFINITION. The control command NOP (spec/40_control.md R126). -/

namespace Sys2Proof.Machine

/-- NOP: completes and changes nothing else (R126). -/
def execNop (s : State) : Host.Outcome State Fault Refusal := complete s (.ok s)

end Sys2Proof.Machine
end

