-- ==== Sys2Proof/Machine/Crc.lean ====
section
/-! DEFINITION. The CRC-16 unit (spec/47_crc16.md) and the commands CRC_INIT, CRC_BYTE, CRC_BUF. -/

namespace Sys2Proof.Machine

/-- One shift of crcStep (R330). -/
def crcShift (c : BitVec 16) : BitVec 16 :=
  if c.getLsbD 15 then (c <<< 1) ^^^ 0x1021#16 else c <<< 1

/-- `n` shifts. -/
def crcShifts : Nat → BitVec 16 → BitVec 16
  | 0, c => c
  | n + 1, c => crcShifts n (crcShift c)

/-- crcStep(c, b) (R330). -/
def crcStep (c : BitVec 16) (b : Byte) : BitVec 16 := crcShifts 8 (c ^^^ (b.setWidth 16 <<< 8))

/-- The register after the bytes, first byte first (R331). -/
def crcFold (c : BitVec 16) (bytes : List Byte) : BitVec 16 := bytes.foldl crcStep c

/-- crc16 of a byte string (R331). -/
def crc16 (bytes : List Byte) : BitVec 16 := crcFold 0xFFFF bytes

/-- The outcome of CRC_BUF (R334). -/
def crcBufOutcome (s : State) : Except ErrorCode State :=
  if inbufRangeOk s.arg0 s.arg1 then
    .ok (s.setCrc (crcFold s.crc (s.inbufBytes s.arg0.toNat s.arg1.toNat)))
  else .error .rangeError

/-- CRC_INIT (R332). -/
def execCrcInit (s : State) : Host.Outcome State Fault Refusal := complete s (.ok (s.setCrc 0xFFFF))

/-- CRC_BYTE (R333). -/
def execCrcByte (b : Byte) (s : State) : Host.Outcome State Fault Refusal :=
  complete s (.ok (s.setCrc (crcStep s.crc b)))

/-- CRC_BUF (R334). -/
def execCrcBuf (s : State) : Host.Outcome State Fault Refusal := complete s (crcBufOutcome s)

end Sys2Proof.Machine
end

