-- ==== Sys2Proof/Machine/Dispatch.lean ====
section
/-! DEFINITION. The engine's step for a decoded command (spec/40_control.md R123): one meaning per command. -/

namespace Sys2Proof.Machine

def exec (i : Instr) (s : State) : Host.Outcome State Fault Refusal :=
  match i with
  | .nop => Sys2Proof.Machine.execNop s
  | .gfMul a b => Sys2Proof.Machine.execGfMul a b s
  | .gfDiv a b => Sys2Proof.Machine.execGfDiv a b s
  | .gfInv b => Sys2Proof.Machine.execGfInv b s
  | .gfLog a => Sys2Proof.Machine.execGfLog a s
  | .gfExp e => Sys2Proof.Machine.execGfExp e s
  | .polyMul => Sys2Proof.Machine.execPolyMul s
  | .polyMod => Sys2Proof.Machine.execPolyMod s
  | .rsGen t => Sys2Proof.Machine.execRsGen t s
  | .rsEcc t => Sys2Proof.Machine.execRsEcc t s
  | .bbClear => Sys2Proof.Machine.execBbClear s
  | .bbPut nbits => Sys2Proof.Machine.execBbPut nbits s
  | .bbPutBit bit => Sys2Proof.Machine.execBbPutBit bit s
  | .qrClear => Sys2Proof.Machine.execQrClear s
  | .qrConfig mreq ecc vreq => Sys2Proof.Machine.execQrConfig mreq ecc vreq s
  | .qrAppend => Sys2Proof.Machine.execQrAppend s
  | .qrSelVer => Sys2Proof.Machine.execQrSelVer s
  | .qrCodewords => Sys2Proof.Machine.execQrCodewords s
  | .qrLayout test mask => Sys2Proof.Machine.execQrLayout test mask s
  | .qrPenalty => Sys2Proof.Machine.execQrPenalty s
  | .qrMaskSel => Sys2Proof.Machine.execQrMaskSel s
  | .qrFinal => Sys2Proof.Machine.execQrFinal s
  | .qrMake => Sys2Proof.Machine.execQrMake s
  | .qrFmtBch ecc mask => Sys2Proof.Machine.execQrFmtBch ecc mask s
  | .qrVerBch ver => Sys2Proof.Machine.execQrVerBch ver s
  | .tblQuery ecc ver => Sys2Proof.Machine.execTblQuery ecc ver s
  | .tblAlign ver => Sys2Proof.Machine.execTblAlign ver s
  | .crcInit => Sys2Proof.Machine.execCrcInit s
  | .crcByte b => Sys2Proof.Machine.execCrcByte b s
  | .crcBuf => Sys2Proof.Machine.execCrcBuf s

end Sys2Proof.Machine
end

