-- ==== Sys2Proof/Machine/Engine.lean ====
section
/-! DEFINITION. The engine's one step (spec/40_control.md R120, R123). -/

namespace Sys2Proof.Machine

/-- The engine executes the command in LATCH: decode (spec/30_encoding.md R94), then the command's meaning;
a word that does not decode ends with its error completion. -/
def engineStep (s : State) : Host.Outcome State Fault Refusal :=
  match decode s.latch with
  | .error c => complete s (.error c)
  | .ok i => exec i s

/-- The engine's turn: it takes no step while BUSY = 0 (R120). -/
def engineTurn (s : State) : Host.Outcome State Fault Refusal :=
  if s.busy then engineStep s else .next s

end Sys2Proof.Machine
end

