-- ==== Sys2Proof/Machine/Flags.lean ====
section
/-! DEFINITION. The status word and the other registers whose fields stand apart in State: their values as
32-bit words (spec/10_state.md R25-R44), and the interrupt line (spec/60_exceptions.md R360). The block has no
condition codes (R57). -/

namespace Sys2Proof.Machine

/-- The value of the field STATUS.QRSTATE (R53). -/
def QrState.bits : QrState → BitVec 3
  | .empty => 0
  | .dataAppended => 1
  | .versionChosen => 2
  | .matrixLaidOut => 3
  | .maskChosen => 4
  | .matrixFinal => 5

/-- A one-bit field. -/
def bit (b : Bool) : BitVec 1 := BitVec.ofBool b

/-- The line `irq` (R360). -/
def State.irq (s : State) : Bool := s.irqEn && s.done

/-- CTRL: IRQ_EN in bit 1; SRST reads 0 (R26). -/
def State.ctrlWord (s : State) : Word := (0 : BitVec 30) ++ bit s.irqEn ++ (0 : BitVec 1)

/-- STATUS: BUSY, DONE, ERR, OVR in bits 0 to 3, QRSTATE in [6:4], CW_VALID in bit 7 (R27). -/
def State.statusWord (s : State) : Word :=
  (0 : BitVec 24) ++ bit s.cwValid ++ s.qrState.bits ++ bit s.ovr ++ bit s.err ++ bit s.done ++ bit s.busy

/-- ERRCODE: CODE in [3:0], OPCODE in [15:8] (R28). -/
def State.errcodeWord (s : State) : Word := (0 : BitVec 16) ++ s.errOpcode ++ (0 : BitVec 4) ++ s.errCode

/-- QR_CFG: VREQ in [5:0], ECC in [9:8], MREQ in [15:12] (R35). -/
def State.cfgWord (s : State) : Word :=
  (0 : BitVec 16) ++ s.cfg.mreq ++ (0 : BitVec 2) ++ s.cfg.ecc ++ (0 : BitVec 2) ++ s.cfg.vreq

/-- QR_MASK: LAYOUT_MASK in [2:0], CHOSEN_MASK in [6:4], CHOSEN_VALID in bit 8, LAYOUT_TEST in bit 9 (R37). -/
def State.qrMaskWord (s : State) : Word :=
  (0 : BitVec 22) ++ bit s.layoutTest ++ bit s.chosenValid ++ (0 : BitVec 1) ++ s.chosen ++
    (0 : BitVec 1) ++ s.layoutMask

/-- CW_LEN: TOTAL in [11:0], DATA in [27:16] (R39). -/
def State.cwLenWord (s : State) : Word := (0 : BitVec 4) ++ s.cwData ++ (0 : BitVec 4) ++ s.cwTotal

/-- The value a read of a register returns while nothing is pending (R24-R45). -/
def State.readReg (s : State) : Reg → Word
  | .id => Config.idValue
  | .ctrl => s.ctrlWord
  | .status => s.statusWord
  | .errcode => s.errcodeWord
  | .cmd => 0
  | .arg0 => s.arg0
  | .arg1 => s.arg1
  | .res0 => s.res0
  | .res1 => s.res1
  | .paLen => s.paLen.setWidth 32
  | .pbLen => s.pbLen.setWidth 32
  | .prLen => s.prLen.setWidth 32
  | .bbLen => s.bbLen.setWidth 32
  | .qrCfg => s.cfgWord
  | .qrVer => s.qrVer.setWidth 32
  | .qrMask => s.qrMaskWord
  | .qrSize => s.qrSize.setWidth 32
  | .cwLen => s.cwLenWord
  | .crc => s.crc.setWidth 32
  | .segCount => s.segCount.setWidth 32
  | .penalty => s.penalty
  | .penR1 => s.penR1
  | .penR2 => s.penR2
  | .penR3 => s.penR3
  | .penR4 => s.penR4
  | .mscore k => s.mscore[k]
  | .segOff k => s.segs[k].off.setWidth 32
  | .segLen k => s.segs[k].len.setWidth 32
  | .reserved => 0

end Sys2Proof.Machine
end

