-- ==== Sys2Proof/Machine/Writes.lean ====
section
/-! DEFINITION. What a command may write: the "Registers written" lines of spec/41 to spec/47 and the address
map's last column (spec/20_memory.md R61). STATUS and ERRCODE stand apart: every completion writes them. -/

namespace Sys2Proof.Machine

/-- The registers invalidate() writes (spec/44_symbol_builder.md R223). -/
def invalidated : Reg → Bool
  | .cwLen | .qrSize | .qrMask => true
  | _ => false

/-- The registers a codeword build writes (R232). -/
def built : Reg → Bool
  | .bbLen | .cwLen => true
  | _ => false

/-- The registers a layout writes (spec/45_matrix_layout.md R273). -/
def laid : Reg → Bool
  | .qrSize | .qrMask => true
  | _ => false

/-- PENALTY and PEN_R1 to PEN_R4 (R42). -/
def scored : Reg → Bool
  | .penalty | .penR1 | .penR2 | .penR3 | .penR4 => true
  | _ => false

/-- The registers MSCOREk. -/
def isMscore : Reg → Bool
  | .mscore _ => true
  | _ => false

/-- The segment list's registers. -/
def isSegReg : Reg → Bool
  | .segCount | .segOff _ | .segLen _ => true
  | _ => false

/-- The registers a command writes besides STATUS and ERRCODE: the "Registers written" lines of
spec/41 to spec/47. -/
def writesReg : Instr → Reg → Bool
  | .nop, _ => false
  | .gfMul _ _, r | .gfDiv _ _, r | .gfInv _, r | .gfLog _, r | .gfExp _, r => r == .res0
  | .polyMul, r | .polyMod, r | .rsGen _, r | .rsEcc _, r => r == .prLen
  | .bbClear, r | .bbPut _, r | .bbPutBit _, r => r == .bbLen
  | .qrClear, r => invalidated r || isSegReg r || r == .qrVer
  | .qrConfig _ _ _, r => r == .qrCfg
  | .qrAppend, r => invalidated r || isSegReg r || r == .qrVer
  | .qrSelVer, r => invalidated r || r == .qrVer
  | .qrCodewords, r => built r
  | .qrLayout _ _, r => built r || laid r
  | .qrPenalty, r => scored r
  | .qrMaskSel, r => built r || laid r || scored r || isMscore r
  | .qrFinal, r => built r || laid r
  | .qrMake, r => built r || laid r || scored r || isMscore r || r == .qrVer
  | .qrFmtBch _ _, r | .qrVerBch _, r => r == .res0
  | .tblQuery _ _, r | .tblAlign _, r => r == .res0 || r == .res1
  | .crcInit, r | .crcByte _, r | .crcBuf, r => r == .crc

/-- The windows a command writes or leaves unspecified (R61 and the "Registers written" lines). -/
def writesWindow : Instr → Window → Bool
  | .polyMul, w | .polyMod, w | .rsGen _, w | .rsEcc _, w => w == .pr
  | .bbClear, w | .bbPut _, w | .bbPutBit _, w => w == .bb
  | .qrClear, w | .qrAppend, w | .qrSelVer, w => w == .cw || w == .matrix
  | .qrCodewords, w => w == .bb || w == .cw
  | .qrLayout _ _, w | .qrMaskSel, w | .qrFinal, w | .qrMake, w => w == .bb || w == .cw || w == .matrix
  | .nop, _ | .gfMul _ _, _ | .gfDiv _ _, _ | .gfInv _, _ | .gfLog _, _ | .gfExp _, _ => false
  | .qrConfig _ _ _, _ | .qrPenalty, _ | .qrFmtBch _ _, _ | .qrVerBch _, _ => false
  | .tblQuery _ _, _ | .tblAlign _, _ | .crcInit, _ | .crcByte _, _ | .crcBuf, _ => false

end Sys2Proof.Machine
end

