-- ==== Sys2Proof/Machine/HostPort.lean ====
section
/-! DEFINITION. The host's accesses to the block (spec/20_memory.md R60-R76, spec/10_state.md R24-R45,
spec/70_reset_and_hazards.md R390): the address map, reads, writes, and the two faults of an access
(spec/60_exceptions.md R356). -/

namespace Sys2Proof.Machine

/-- The number of bytes of an access. -/
def Width.bytes : Width → Nat
  | .byte => 1
  | .half => 2
  | .full => 4

/-! ### The address map -/

/-- The register at an offset of the register page that is a multiple of 4 (R24). -/
def regAt (off : Nat) : Reg :=
  match off with
  | 0x000 => .id
  | 0x004 => .ctrl
  | 0x008 => .status
  | 0x00C => .errcode
  | 0x010 => .cmd
  | 0x014 => .arg0
  | 0x018 => .arg1
  | 0x01C => .res0
  | 0x020 => .res1
  | 0x024 => .paLen
  | 0x028 => .pbLen
  | 0x02C => .prLen
  | 0x030 => .bbLen
  | 0x034 => .qrCfg
  | 0x038 => .qrVer
  | 0x03C => .qrMask
  | 0x040 => .qrSize
  | 0x044 => .cwLen
  | 0x048 => .crc
  | 0x04C => .segCount
  | 0x050 => .penalty
  | 0x054 => .penR1
  | 0x058 => .penR2
  | 0x05C => .penR3
  | 0x060 => .penR4
  | o =>
    if 0x064 ≤ o ∧ o < 0x084 then .mscore (Fin.ofNat 8 ((o - 0x064) / 4))
    else if 0x100 ≤ o ∧ o < 0x140 then
      if o % 8 = 0 then .segOff (Fin.ofNat 8 ((o - 0x100) / 8)) else .segLen (Fin.ofNat 8 ((o - 0x100) / 8))
    else .reserved

/-- The windows in the order of the address map (R61). -/
def windows : List Window := [.exp, .log, .pa, .pb, .pr, .inbuf, .bb, .cw, .matrix]

/-- The offset lies in the window. -/
def Window.holds (w : Window) (off : Nat) : Bool := decide (w.base ≤ off) && decide (off < w.base + w.size)

/-- The window an offset lies in (R61). -/
def windowAt (off : Nat) : Option Window := windows.find? (fun w => w.holds off)

/-- What an access addresses: a register, or a window from an index on. -/
inductive Target where
  | reg (r : Reg)
  | win (w : Window) (index : Nat)
  deriving DecidableEq, Repr

/-- What an access of a width at an offset addresses, or why it gets a bus error: registers take aligned
32-bit accesses only, windows aligned accesses of every width within the window (R63, R66). -/
def targetOf (width : Width) (off : Nat) : Except BusCause Target :=
  if off < 0x200 then
    if width = .full ∧ off % 4 = 0 then .ok (.reg (regAt off)) else .error .misaligned
  else
    match windowAt off with
    | none => .error .unmapped
    | some w =>
      if off % width.bytes = 0 ∧ off + width.bytes ≤ w.base + w.size then .ok (.win w (off - w.base))
      else .error .misaligned

/-! ### Reads -/

/-- The command may write the target. -/
def Target.writtenBy (i : Instr) : Target → Bool
  | .reg r => writesReg i r
  | .win w _ => writesWindow i w

/-- A command is pending that may write the target (R76; spec/70_reset_and_hazards.md R390). A word that fails
a check of spec/30_encoding.md R94 writes nothing (log entry 6). -/
def State.inFlight (s : State) (t : Target) : Bool :=
  s.busy &&
    match decodeChecked s.latch with
    | .ok i => t.writtenBy i
    | .error _ => false

/-- The byte at an index of a window (R67-R72). -/
def State.windowByte (s : State) (w : Window) (k : Nat) : Byte :=
  match w with
  | .exp => gfExpTable k
  | .log => BitVec.ofNat 8 (gfLogTable (BitVec.ofNat 8 k))
  | .pa | .pb | .pr | .inbuf | .bb | .cw => s.ramByte (w.base + k)
  | .matrix => s.matrixByte k

/-- The byte at a mapped window offset; 0 elsewhere, where no access reads. -/
def State.byteAt (s : State) (off : Nat) : Byte :=
  match windowAt off with
  | some w => s.windowByte w (off - w.base)
  | none => 0

/-- The value of `n` bytes, the first in bits [7:0] (R62). -/
def littleEndian : List Byte → Nat
  | [] => 0
  | b :: bs => b.toNat + 256 * littleEndian bs

/-- The value a read returns while nothing is pending; a narrow value is zero-extended. -/
def State.readTarget (s : State) (width : Width) : Target → Word
  | .reg r => s.readReg r
  | .win w k =>
    BitVec.ofNat 32 (littleEndian ((List.range width.bytes).map (fun j => s.windowByte w (k + j))))

/-- A read: it has no side effect on the block (R73). While BUSY = 1, what the pending command may write
reads as a free value, and everything else as it stands (R76, R390; log entry 6). -/
def State.hostRead (s : State) (width : Width) (t : Target) : State :=
  if s.inFlight t then
    (s.respond (.value (BitVec.ofNat 32 ((Config.busyRead s.draws).toNat % 2 ^ (8 * width.bytes))))).drawn
  else s.respond (.value (s.readTarget width t))

/-! ### Writes -/

/-- The low `n` bytes of a value, bits [7:0] first (R62). -/
def lowBytes (v : Word) (n : Nat) : List Byte := (List.range n).map (fun j => v.extractLsb' (8 * j) 8)

/-- A write of CTRL: SRST = 1 resets, whatever IRQ_EN is in the same write (R26, R382). -/
def State.writeCtrl (s : State) (v : Word) : State :=
  if v.getLsbD 0 then s.softReset else s.setIrqEn (v.getLsbD 1)

/-- A write of CMD: acceptance while BUSY = 0, dropped with OVR set while BUSY = 1 (R121, R122). -/
def State.writeCmd (s : State) (v : Word) : State := if s.busy then s.overrun else s.accept v

/-- The operands a pending command may read: written while BUSY = 1, they are a HostHazard (R76, R356). -/
def Target.isOperand : Target → Bool
  | .reg .arg0 | .reg .arg1 | .reg .paLen | .reg .pbLen => true
  | .win .pa _ | .win .pb _ | .win .inbuf _ => true
  | _ => false

/-- What a write that is no HostHazard does; read-only registers, read-only windows and reserved offsets
ignore it (R65). -/
def State.writeTarget (s : State) (width : Width) (v : Word) : Target → State
  | .reg .ctrl => s.writeCtrl v
  | .reg .status => s.clearStatus v
  | .reg .cmd => s.writeCmd v
  | .reg .arg0 => s.setArg0 v
  | .reg .arg1 => s.setArg1 v
  | .reg .paLen => s.setPaLen v
  | .reg .pbLen => s.setPbLen v
  | .win .pa k => s.writeRam (Window.base .pa + k) (lowBytes v width.bytes)
  | .win .pb k => s.writeRam (Window.base .pb + k) (lowBytes v width.bytes)
  | .win .inbuf k => s.writeRam (Window.base .inbuf + k) (lowBytes v width.bytes)
  | _ => s

/-- One host access (R74): a bus error for an access the map does not admit, a HostHazard for an operand
written while BUSY = 1, and otherwise its effect and its answer. -/
def hostAccess (a : HostAccess) (s : State) : Host.Outcome State Fault Refusal :=
  match a with
  | .read width off =>
    match targetOf width off.toNat with
    | .error cause => .fault (.busError off cause)
    | .ok t => .next (s.hostRead width t)
  | .write width off v =>
    match targetOf width off.toNat with
    | .error cause => .fault (.busError off cause)
    | .ok t =>
      if s.busy && t.isOperand then .fault (.hostHazard off)
      else .next ((s.writeTarget width v t).respond .wrote)

end Sys2Proof.Machine
end

