-- ==== Sys2Proof/Machine/Step.lean ====
section
/-! DEFINITION. One step of the whole system, host and engine (spec/20_memory.md R75, spec/40_control.md R120). -/

namespace Sys2Proof.Machine

/-- One step: the next turn of the list, or the engine's turn when the list is empty, so that an accepted
command is always executed in the end (spec/40_control.md R128; log entries 1 and 2). -/
def step (s : State) : Host.Outcome State Fault Refusal :=
  match s.turns with
  | [] => engineTurn s
  | .engine :: ts => engineTurn (s.setTurns ts)
  | .host a :: ts => hostAccess a (s.setTurns ts)

/-- `s` with the command word of the low `nbits` bits of `w` accepted (R121) and the engine's turn next: the
very next step executes exactly it (log entry 3). -/
def State.withFetchWord (s : State) (nbits w : Nat) : State :=
  (s.accept (BitVec.ofNat 32 (w % 2 ^ nbits))).setTurns (.engine :: s.turns)

end Sys2Proof.Machine
end

