-- ==== Sys2Proof/Safety.lean ====
section
/-! DEFINITION. What counts as a safe turn, the invariants of the machine, and the spec's tables of what each
command writes and where the symbol builder goes: the terms the statements are made in. -/

namespace Sys2Proof.Machine

/-! ### Safe turns -/

/-- The access is admitted by the address map, and is no write of an operand while BUSY = 1
(spec/20_memory.md R63, R66, R76). -/
def accessSafe (busy : Bool) : HostAccess → Bool
  | .read width off =>
    match targetOf width off.toNat with
    | .ok _ => true
    | .error _ => false
  | .write width off _ =>
    match targetOf width off.toNat with
    | .ok t => !(busy && t.isOperand)
    | .error _ => false

/-- The next turn keeps the host protocol. An engine turn always does. -/
def State.turnSafe (s : State) : Bool :=
  match s.turns with
  | .host a :: _ => accessSafe s.busy a
  | _ => true

/-! ### Invariants -/

/-- The offset lies in one of the RAM windows PA, PB, PR, INBUF, BB, CW (R61). -/
def isRam (a : Nat) : Bool :=
  Window.holds .pa a || Window.holds .pb a || Window.holds .pr a || Window.holds .inbuf a ||
    Window.holds .bb a || Window.holds .cw a

/-- The registers of the symbol builder and the lengths hold values the spec gives them
(spec/10_state.md R32-R44, R53-R55; spec/44_symbol_builder.md R221, R223). -/
structure State.RegInv (s : State) : Prop where
  prLen_le : s.prLen.toNat ≤ 256
  bbLen_le : s.bbLen.toNat ≤ 32768
  vreq_le : s.cfg.vreq.toNat ≤ 40
  mreq_le : s.cfg.mreq.toNat ≤ 8
  ver_le : s.qrVer.toNat ≤ 40
  ver_chosen : s.qrVer = 0 ↔ s.qrState = .empty ∨ s.qrState = .dataAppended
  segs_le : s.segCount.toNat ≤ 8
  segs_held : s.segCount = 0 ↔ s.qrState = .empty
  segs_inside : ∀ k : Fin 8, (s.segs[k]).off.toNat + (s.segs[k]).len.toNat ≤ 4096
  segs_unused : ∀ k : Fin 8, s.segCount.toNat ≤ k.val → s.segs[k] = ⟨0, 0⟩
  cw_dropped : s.cwValid = false → s.cwTotal = 0 ∧ s.cwData = 0
  cw_held : s.cwValid = true → s.qrVer ≠ 0 ∧
    s.cwTotal.toNat = totalCount s.qrVer.toNat (levelOf s.cfg.ecc) ∧
    s.cwData.toNat = dataCount s.qrVer.toNat (levelOf s.cfg.ecc)
  chosen_dropped : s.chosenValid = false → s.chosen = 0
  chosen_held : s.chosenValid = true → s.qrVer ≠ 0
  matrix_dropped : s.qrSize = 0 → s.layoutMask = 0 ∧ s.layoutTest = false
  matrix_held : s.qrSize ≠ 0 → s.qrVer ≠ 0 ∧ s.qrSize.toNat = 4 * s.qrVer.toNat + 17
  laidOut : s.qrState = .matrixLaidOut → s.qrSize ≠ 0 ∧ s.layoutTest = true
  maskChosen : s.qrState = .maskChosen → s.chosenValid = true
  final : s.qrState = .matrixFinal → s.qrSize ≠ 0 ∧ s.layoutTest = false ∧ s.cwValid = true

/-- The command interface: while a command is pending nothing is reported, and ERRCODE names an error of
spec/60_exceptions.md R350 whenever ERR is set (spec/10_state.md R27, R28; spec/40_control.md R121, R123). -/
structure State.StatusInv (s : State) : Prop where
  pending : s.busy = true → s.done = false ∧ s.err = false ∧ s.errCode = 0
  code_le : s.errCode.toNat ≤ 8
  reported : s.err = true → s.errCode ≠ 0
  opcode : s.errCode = 0 → s.errOpcode = 0

/-- The listed bytes: canonical, inside the RAM windows, and holding at least every byte the spec specifies;
the bits of BB's last byte beyond BB_LEN are 0 (spec/20_memory.md R68, R71, R72; spec/43_tables_bitbuf.md R205). -/
structure State.BytesInv (s : State) : Prop where
  wf : s.mem.wf
  inRam : ∀ c ∈ s.mem, isRam c.1 = true
  pr : ∀ k, k < s.prLen.toNat → (s.mem.read (Window.base .pr + k)).isSome = true
  bb : ∀ k, 8 * k < s.bbLen.toNat → (s.mem.read (Window.base .bb + k)).isSome = true
  bbTail : ∀ p, s.bbLen.toNat ≤ p → p < 8 * ((s.bbLen.toNat + 7) / 8) → s.bbBit p = false
  cw : s.cwValid = true → ∀ k, k < s.cwTotal.toNat → (s.mem.read (Window.base .cw + k)).isSome = true

/-- A matrix of n rows of n cells, every cell light or dark (spec/10_state.md R59, spec/45_matrix_layout.md
R285). -/
def resolved (n : Nat) (g : Grid) : Prop :=
  g.length = n ∧ ∀ row ∈ g, row.length = n ∧ ∀ c ∈ row, c ≠ QrCell.unset

/-- MATRIX holds no matrix, or a resolved one of QR_SIZE rows (spec/20_memory.md R70). -/
def State.MatrixInv (s : State) : Prop :=
  (s.qrSize = 0 ∧ s.matrix = []) ∨ (s.qrSize ≠ 0 ∧ resolved s.qrSize.toNat s.matrix)

/-! ### What the commands' rules say they write (the registers and windows: Machine/Writes.lean) -/

/-- The command may change CW_VALID, CHOSEN or CHOSEN_VALID. -/
def writesBuild : Instr → Bool
  | .qrClear | .qrAppend | .qrSelVer | .qrCodewords | .qrLayout _ _ | .qrMaskSel | .qrFinal | .qrMake => true
  | .nop | .gfMul _ _ | .gfDiv _ _ | .gfInv _ | .gfLog _ | .gfExp _ => false
  | .polyMul | .polyMod | .rsGen _ | .rsEcc _ | .bbClear | .bbPut _ | .bbPutBit _ => false
  | .qrConfig _ _ _ | .qrPenalty | .qrFmtBch _ _ | .qrVerBch _ | .tblQuery _ _ | .tblAlign _ => false
  | .crcInit | .crcByte _ | .crcBuf => false

/-- The registers R76 lists for the time a command is pending (spec/20_memory.md R76). -/
def listedReg : Reg → Bool
  | .res0 | .res1 | .prLen | .bbLen | .qrCfg | .qrVer | .qrMask | .qrSize | .cwLen | .crc | .segCount => true
  | .penalty | .penR1 | .penR2 | .penR3 | .penR4 | .mscore _ | .segOff _ | .segLen _ => true
  | .id | .ctrl | .status | .errcode | .cmd | .arg0 | .arg1 | .paLen | .pbLen | .reserved => false

/-- The windows R76 lists for the time a command is pending (spec/20_memory.md R76). -/
def listedWindow : Window → Bool
  | .pr | .bb | .cw | .matrix => true
  | .exp | .log | .pa | .pb | .inbuf => false

/-- The builder's state table for one row (spec/44_symbol_builder.md R221): `next` in the states the list
names, SequenceError (none) in the others. -/
def rowNext (admits : List QrState) (next q : QrState) : Option QrState :=
  if q ∈ admits then some next else none

/-- The states that hold a version. -/
def versionStates : List QrState := [.versionChosen, .matrixLaidOut, .maskChosen]

/-- The state table (spec/44_symbol_builder.md R221): the state after a command, or none where the command
fails with SequenceError. The conditions on CHOSEN_VALID and QR_SIZE stand apart. -/
def builderNext (i : Instr) (q : QrState) : Option QrState :=
  match i with
  | .qrClear => some .empty
  | .qrConfig _ _ _ => rowNext [.empty, .dataAppended] q q
  | .qrAppend => rowNext (.empty :: .dataAppended :: versionStates) .dataAppended q
  | .qrSelVer => rowNext (.dataAppended :: versionStates) .versionChosen q
  | .qrCodewords => rowNext versionStates q q
  | .qrLayout test _ => rowNext versionStates (if test = 1 then .matrixLaidOut else .matrixFinal) q
  | .qrMaskSel => rowNext versionStates .maskChosen q
  | .qrFinal => rowNext versionStates .matrixFinal q
  | .qrMake => rowNext (.dataAppended :: versionStates) .matrixFinal q
  | .nop | .gfMul _ _ | .gfDiv _ _ | .gfInv _ | .gfLog _ | .gfExp _ => some q
  | .polyMul | .polyMod | .rsGen _ | .rsEcc _ | .bbClear | .bbPut _ | .bbPutBit _ => some q
  | .qrPenalty | .qrFmtBch _ _ | .qrVerBch _ | .tblQuery _ _ | .tblAlign _ => some q
  | .crcInit | .crcByte _ | .crcBuf => some q

/-! ### When a build succeeds -/

/-- The segments' byte lengths, in append order. -/
def State.segLens (s : State) : List Nat := s.segList.map (fun g => g.len.toNat)

/-- The segments fit version `v` at the configured level (spec/44_symbol_builder.md R227, R228): the
lengths alone decide (log entries 20 and 21). -/
def State.fits (s : State) (v : Nat) : Prop :=
  bitLen s.segLens v ≤ 8 * dataCount v (levelOf s.cfg.ecc)

/-- The codewords are held, or they can be built (R230, R238). -/
def State.canBuild (s : State) : Prop := s.cwValid = true ∨ s.fits s.qrVer.toNat

/-- The codewords a layout command uses: the held ones, else those QR_CODEWORDS builds (R238). -/
def State.layoutCodewords (s : State) : List Byte :=
  if s.cwValid then s.codewords
  else
    match exec .qrCodewords s with
    | .next t => t.codewords
    | _ => []

/-- QR_MAKE can finish the symbol (R239). -/
def State.canMake (s : State) : Prop :=
  (s.qrState = .dataAppended ∧ s.cfg.vreq = 0 ∧ ∃ v, 1 ≤ v ∧ v ≤ 40 ∧ s.fits v) ∨
  (s.qrState = .dataAppended ∧ s.cfg.vreq ≠ 0 ∧ s.fits s.cfg.vreq.toNat) ∨
  (s.qrState.hasVersion = true ∧ s.canBuild)

/-- The commands run one after another, each ending without an error. -/
def runAll : List Instr → State → Option State
  | [], s => some s
  | i :: is, s =>
    match exec i s with
    | .next t => if t.err then none else runAll is t
    | _ => none

/-- MSCOREk for k = CHOSEN. -/
def State.chosenScore (s : State) : Word := s.mscore[Fin.ofNat 8 s.chosen.toNat]

/-- No build is held: what invalidate() leaves (R223). -/
def State.noBuild (s : State) : Prop :=
  s.cwValid = false ∧ s.cwTotal = 0 ∧ s.cwData = 0 ∧ s.qrSize = 0 ∧ s.chosenValid = false ∧ s.chosen = 0 ∧
    s.layoutMask = 0 ∧ s.layoutTest = false

/-! ### Reference arithmetic the statements compare with -/

/-- The exclusive or of a list of bytes. -/
def xorSum (xs : List Byte) : Byte := xs.foldl (fun a b => a ^^^ b) 0

/-- The carry-less product of two bytes, at most 15 bits (spec/41_gf_arith.md R151(e)). -/
def carrylessProduct (a b : Byte) : BitVec 16 :=
  (List.range 8).foldl (fun p k => if b.getLsbD k then p ^^^ (a.setWidth 16 <<< k) else p) 0

/-- Reduction mod 0x11D, from bit 14 down to bit 8 (R151(e)). -/
def reduceMod11D (x : BitVec 16) : Byte :=
  ((List.range 7).foldl
    (fun p k => if p.getLsbD (14 - k) then p ^^^ (0x11D#16 <<< (6 - k)) else p) x).setWidth 8

/-- The doubling of R140, xtime(v). -/
def xtime (v : Byte) : Byte := if v.getLsbD 7 then (v <<< 1) ^^^ 0x1D else v <<< 1

/-- The coefficient of x^k of a polynomial, highest degree first (spec/42_poly_rs.md R160). -/
def coeff (p : Poly) (k : Nat) : Byte := p.reverse.getD k 0

/-- The value of a polynomial at a point. -/
def evalAt (p : Poly) (x : Byte) : Byte := p.foldl (fun acc c => gfMul acc x ^^^ c) 0

/-- The carry-less product of two numbers, the second below 2^8: products of polynomials over GF(2). -/
def binaryProduct (a b : Nat) : Nat :=
  (List.range 8).foldl (fun p k => if b.testBit k then p ^^^ (a <<< k) else p) 0

/-! ### Reference counts for the penalty rules (spec/46_mask_penalty.md R301-R304) -/

/-- `runs` splits a line into its maximal runs of equal cells, each a cell and a length: together they are the
line, none is empty, and neighbours differ (R301). -/
def splitsIntoRuns (line : List QrCell) (runs : List (QrCell × Nat)) : Prop :=
  line = runs.flatMap (fun r => List.replicate r.2 r.1) ∧ (∀ r ∈ runs, 1 ≤ r.2) ∧
    ∀ p ∈ runs.zip runs.tail, p.1.1 ≠ p.2.1

/-- What a line's runs add: 3 + (k - 5) for each of length k ≥ 5 (R301). -/
def runPoints (runs : List (QrCell × Nat)) : Nat :=
  ((runs.filter (fun r => decide (5 ≤ r.2))).map (fun r => 3 + (r.2 - 5))).sum

/-- The sum of a number for each index below `n`. -/
def sumBelow (n : Nat) (f : Nat → Nat) : Nat := ((List.range n).map f).sum

/-- Row `r` of an n by n matrix, in increasing column order. -/
def rowLine (n : Nat) (g : Grid) (r : Nat) : List QrCell := (List.range n).map (fun c => Grid.get g r c)

/-- Column `c` of an n by n matrix, in increasing row order. -/
def columnLine (n : Nat) (g : Grid) (c : Nat) : List QrCell := (List.range n).map (fun r => Grid.get g r c)

/-- The 2 by 2 blocks of one colour: the places (r, c), 0 ≤ r, c ≤ n - 2, of their top left cells (R302). -/
def equalBlocks (n : Nat) (g : Grid) : Nat :=
  sumBelow (n - 1) (fun r => (List.range (n - 1)).countP (fun c =>
    decide (Grid.get g r c = Grid.get g r (c + 1) ∧ Grid.get g r c = Grid.get g (r + 1) c ∧
      Grid.get g r c = Grid.get g (r + 1) (c + 1))))

/-- The starts s, 0 ≤ s ≤ n - 7, at which a line holds dark, light, dark, dark, dark, light, dark (R303). -/
def patternStarts (n : Nat) (cells : List QrCell) : Nat :=
  (List.range (n - 6)).countP (fun s => decide (∀ i, i < 7 →
    cells[s + i]? = some (if i = 1 ∨ i = 5 then .light else .dark)))

/-- The dark cells of an n by n matrix (R304). -/
def darkCells (n : Nat) (g : Grid) : Nat :=
  sumBelow n (fun r => (List.range n).countP (fun c => decide (Grid.get g r c = .dark)))

/-- The index column by column of byte `i` of sequence `j` among sequences of the given lengths: all bytes of
the columns before, then those of the sequences before it that reach column `i`
(spec/44_symbol_builder.md R235). -/
def columnIndex (lens : List Nat) (j i : Nat) : Nat :=
  (lens.map (min i)).sum + ((lens.take j).filter (fun n => decide (i < n))).length

end Sys2Proof.Machine
end

