-- ==== Sys2Proof/Certificates/Slice0/Obligations.lean ====
section
/-! DEFINITION. The statements about the GFQR engine. Each docstring names the rules of spec/ the statement
rests on. -/

section

open Sys2Proof Sys2Proof.Machine

/-! ### The command protocol -/

/-- R120, R123, R94: the engine's turn executes the decoded command in LATCH; it takes no step while BUSY = 0;
a word that does not decode ends with its error. An empty list of turns means the engine's turn
(log entries 1 and 2). -/
def Obligations.StepRunsDecodedCommand : Prop :=
  (∀ (s : State) i, s.busy = true → s.turns = [] → decode s.latch = .ok i → step s = exec i s) ∧
  (∀ (s : State) i ts, s.busy = true → s.turns = .engine :: ts → decode s.latch = .ok i →
    step s = exec i (s.setTurns ts)) ∧
  (∀ (s : State) c ts, s.busy = true → s.turns = .engine :: ts → decode s.latch = .error c →
    step s = .next ((s.setTurns ts).fail c)) ∧
  (∀ (s : State) ts, s.busy = false → s.turns = .engine :: ts → step s = .next (s.setTurns ts)) ∧
  (∀ (s : State), s.busy = false → s.turns = [] → step s = .next s) ∧
  (∀ (s : State) i, decode (encode i) = .ok i → step (s.withFetchWord 32 (encode i).toNat) = exec i (s.accept (encode i)))

/-- R121, R122: a host write of CMD. While BUSY = 0 it is accepted and nothing but LATCH, BUSY, DONE, ERR and
ERRCODE changes; while BUSY = 1 only OVR is set. (`turns` and `resp` are the model's own fields.) -/
def Obligations.CommandWriteAcceptedOrDropped : Prop :=
  (∀ (s : State) ts w, s.busy = false → s.turns = .host (.write .full 0x010 w) :: ts →
    step s = .next { s with
      latch := w, busy := true, done := false, err := false, errCode := 0, errOpcode := 0,
      turns := ts, resp := .wrote }) ∧
  (∀ (s : State) ts w, s.busy = true → s.turns = .host (.write .full 0x010 w) :: ts →
    step s = .next { s with ovr := true, turns := ts, resp := .wrote })

/-- R123, R126, R128: every command completes, in every state: BUSY is cleared, DONE is set, ERRCODE is 0 after a
success, and names an error and the failing opcode after a failure. NOP succeeds and does nothing else. -/
def Obligations.EveryCommandCompletes : Prop :=
  (∀ i (s : State), ∃ t, exec i s = .next t ∧ t.busy = false ∧ t.done = true ∧
    (t.err = false → t.errCode = 0 ∧ t.errOpcode = 0) ∧
    (t.err = true → 1 ≤ t.errCode.toNat ∧ t.errCode.toNat ≤ 8 ∧ t.errOpcode = opField s.latch)) ∧
  (∀ s : State, exec .nop s = .next { s with
    busy := false, done := true, err := false, errCode := 0, errOpcode := 0 })

/-- R124: a command that fails leaves no trace other than the completion fields. -/
def Obligations.FailedCommandLeavesNoTrace : Prop :=
  ∀ i (s : State) t, exec i s = .next t → t.err = true →
    t = { s with
      busy := false, done := true, err := true, errCode := t.errCode, errOpcode := opField s.latch }

/-- R75, R128: over any number of admitted host reads a pending command stays pending, with its LATCH and all the
block's state; it completes at the engine's next turn. Where that turn stands in the list, this is the rules';
where the list is at its end, that the engine's turn comes next is the model's choice (log entry 2, DESIGN
CHOICE). (`turns`, `resp` and `draws` are the model's own fields.) -/
def Obligations.PendingCommandOutlivesReads : Prop :=
  ∀ (s : State) (rs : List HostAccess), s.busy = true →
    (∀ a ∈ rs, accessSafe true a = true ∧ ∃ width off, a = .read width off) →
    (s.turns = rs.map .host ∨ s.turns = rs.map .host ++ [.engine]) →
    ∃ u t, core.run rs.length s = .next u ∧
      u = { s with turns := s.turns.drop rs.length, resp := u.resp, draws := u.draws } ∧
      core.run (rs.length + 1) s = .next t ∧ t.busy = false ∧ t.done = true ∧ t.turns = []

/-- R63, R66, R76, R356: a step answers a next state exactly when the next turn is no bus error and no
HostHazard, and otherwise stops with one of those two faults (that the model stops there is its choice, log
entry 7). No step is refused. -/
def Obligations.StepStopsExactlyOnUnsafeTurns : Prop :=
  ∀ (s : State), (s.turnSafe = true → ∃ t, step s = .next t) ∧
    (s.turnSafe = false → ∃ off, step s = .fault (.busError off .unmapped) ∨
      step s = .fault (.busError off .misaligned) ∨ (s.busy = true ∧ step s = .fault (.hostHazard off)))

/-! ### Encoding -/

/-- R90-R96: a word decodes to a command, its operands legal or not, exactly when it is the command's word: no bit
of an encoding is dropped, and no word has two meanings. -/
def Obligations.DecodeIsTheInverseOfEncode : Prop := ∀ w i, decode w = .ok i ↔ w = encode i

/-- R95: every opcode outside the map and every nonzero must-be-zero field is IllegalCommand, and NOP has no
alias. -/
def Obligations.ReservedEncodingsAreIllegal : Prop :=
  (∀ w, ((0x06 ≤ (opField w).toNat ∧ (opField w).toNat ≤ 0x0F) ∨
      (0x14 ≤ (opField w).toNat ∧ (opField w).toNat ≤ 0x1F) ∨
      (0x23 ≤ (opField w).toNat ∧ (opField w).toNat ≤ 0x2F) ∨
      (0x3E ≤ (opField w).toNat ∧ (opField w).toNat ≤ 0x3F) ∨ 0x43 ≤ (opField w).toNat) →
    decode w = .error .illegalCommand) ∧
  (∀ w row, row ∈ opMap → row.opc = opField w →
    (((row.fmt = .N ∨ row.fmt = .A ∨ row.fmt = .B) ∧ f2Field w ≠ 0) ∨
      ((row.fmt = .N ∨ row.fmt = .A) ∧ f1Field w ≠ 0) ∨ (row.fmt = .N ∧ f0Field w ≠ 0)) →
    decode w = .error .illegalCommand) ∧
  (∀ w, decode w = .ok .nop ↔ w = 0)

/-- R99: the encoding examples. -/
def Obligations.ExampleWordsDecode : Prop :=
  decode 0x01000280 = .ok (.gfMul 0x02 0x80) ∧
  decode 0x31080000 = .ok (.qrConfig 8 0 0) ∧
  decode 0x31030207 = .ok (.qrConfig 3 2 7) ∧
  decode 0x35000105 = .ok (.qrLayout 1 5) ∧
  decode 0x3C000305 = .ok (.tblQuery 3 5) ∧
  decode 0x41000041 = .ok (.crcByte 0x41) ∧
  decode 0x01010000 = .error .illegalCommand ∧
  decodeChecked 0x3B000040 = .error .rangeError

/-- R94: the engine's step on a word that decode refuses: IllegalCommand for an opcode outside the map, then
IllegalCommand for a nonzero must-be-zero field, then RangeError for an operand field outside its range;
nothing else happens. -/
def Obligations.DecodeFailuresOfTheEngine : Prop :=
  ∀ (s : State),
    ((∀ row ∈ opMap, row.opc ≠ opField s.latch) → engineStep s = .next (s.fail .illegalCommand)) ∧
    (∀ row ∈ opMap, row.opc = opField s.latch →
      row.fmt.zeroFieldsOk (f2Field s.latch) (f1Field s.latch) (f0Field s.latch) = false →
      engineStep s = .next (s.fail .illegalCommand)) ∧
    (∀ i, decode s.latch = .ok i → i.wellFormed = false → engineStep s = .next (s.fail .rangeError))

/-! ### GF(256) -/

/-- R146, R151(e): GF_MUL puts the carry-less product mod 0x11D in RES0 and changes nothing else. -/
def Obligations.GfMulIsTheFieldProduct : Prop :=
  ∀ a b (s : State), exec (.gfMul a b) s =
    .next (s.setRes0 ((reduceMod11D (carrylessProduct a b)).setWidth 32)).succeed

/-- R144, R145, R147, R148: GF_DIV puts the q with q times b = a in RES0, GF_INV the one with b times q = 1, for
every b but 0; b = 0 is InvalidArgument, whatever a is. -/
def Obligations.GfDivAndInvUndoMultiplication : Prop :=
  (∀ a b (s : State), b ≠ 0 → ∃ q, gfMul q b = a ∧
    exec (.gfDiv a b) s = .next (s.setRes0 (q.setWidth 32)).succeed) ∧
  (∀ a (s : State), exec (.gfDiv a 0) s = .next (s.fail .invalidArgument)) ∧
  (∀ b (s : State), b ≠ 0 → ∃ q, gfMul b q = 1 ∧
    exec (.gfInv b) s = .next (s.setRes0 (q.setWidth 32)).succeed) ∧
  (∀ (s : State), exec (.gfInv 0) s = .next (s.fail .invalidArgument))

/-- R149, R150, R151(d): GF_LOG gives the k in 0..254 with EXP[k] = a, GF_EXP the nonzero byte EXP[e mod 255],
whose logarithm is e mod 255; the logarithm of 0 is InvalidArgument. -/
def Obligations.GfLogAndExpAreInverse : Prop :=
  (∀ a (s : State), a ≠ 0 → ∃ k, k ≤ 254 ∧ gfExpTable k = a ∧
    exec (.gfLog a) s = .next (s.setRes0 (BitVec.ofNat 32 k)).succeed) ∧
  (∀ (s : State), exec (.gfLog 0) s = .next (s.fail .invalidArgument)) ∧
  (∀ e (s : State), ∃ v, v ≠ 0 ∧ gfLogTable v = e.toNat % 255 ∧ v = gfExpTable (e.toNat % 255) ∧
    exec (.gfExp e) s = .next (s.setRes0 (v.setWidth 32)).succeed)

/-- R140, R141: EXP is built by doubling mod 0x11D from 1; LOG[a] is the unique k in 0..254 with EXP[k] = a; the
ROM byte at LOG index 0 reads 0xFF. -/
def Obligations.TablesFollowTheRecurrence : Prop :=
  gfExpTable 0 = 0x01 ∧ (∀ k, k < 254 → gfExpTable (k + 1) = xtime (gfExpTable k)) ∧
  gfExpTable 255 = 0x01 ∧
  (∀ a, a ≠ 0 → gfLogTable a ≤ 254 ∧ gfExpTable (gfLogTable a) = a ∧
    ∀ k, k ≤ 254 → gfExpTable k = a → k = gfLogTable a) ∧
  (∀ s : State, s.byteAt 0x01100 = 0xFF)

/-- R151(a), (b), (c): multiplication is commutative, associative and distributive, with 0 and 1, and every
nonzero byte has a consistent inverse. -/
def Obligations.FieldLaws : Prop :=
  (∀ a b, gfMul a b = gfMul b a) ∧ (∀ a b c, gfMul (gfMul a b) c = gfMul a (gfMul b c)) ∧
  (∀ a b c, gfMul a (b ^^^ c) = gfMul a b ^^^ gfMul a c) ∧
  (∀ a, gfMul a 0 = 0 ∧ gfMul a 1 = a) ∧
  (∀ a b, b ≠ 0 → ∃ q, gfInv b = .ok q ∧ gfMul a (gfMul b q) = a)

/-! ### Polynomials -/

/-- R163, R167: POLY_MUL stores the normalized polynomial whose coefficients are the convolution of the operands'
in PR and PR_LEN and changes nothing else; a bad length, or a product longer than 256, is LengthError. -/
def Obligations.PolyMulIsTheConvolution : Prop :=
  (∀ (s : State), polyLenOk s.paLen = true → polyLenOk s.pbLen = true →
    ∃ r, polyNorm r = r ∧
      (∀ k, coeff r k =
        xorSum ((List.range (k + 1)).map (fun i => gfMul (coeff s.polyA i) (coeff s.polyB (k - i))))) ∧
      (r.length ≤ 256 → exec .polyMul s = .next (s.storePr r).succeed) ∧
      (256 < r.length → exec .polyMul s = .next (s.fail .lengthError))) ∧
  (∀ (s : State), (polyLenOk s.paLen = false ∨ polyLenOk s.pbLen = false) →
    exec .polyMul s = .next (s.fail .lengthError))

/-- R164, R168, R171(d): for a nonzero divisor POLY_MOD stores the normalized remainder, shorter than the divisor
or zero, that differs from the dividend by a multiple of the divisor; a zero divisor is InvalidArgument; a bad
length is LengthError. -/
def Obligations.PolyModIsTheRemainder : Prop :=
  (∀ (s : State), polyLenOk s.paLen = true → polyLenOk s.pbLen = true → isZero s.polyB = false →
    ∃ r q, polyNorm r = r ∧ (r = [0] ∨ r.length < (polyNorm s.polyB).length) ∧
      (∀ k, coeff s.polyA k = coeff (pmul q s.polyB) k ^^^ coeff r k) ∧
      exec .polyMod s = .next (s.storePr r).succeed) ∧
  (∀ (s : State), polyLenOk s.paLen = true → polyLenOk s.pbLen = true → isZero s.polyB = true →
    exec .polyMod s = .next (s.fail .invalidArgument)) ∧
  (∀ (s : State), (polyLenOk s.paLen = false ∨ polyLenOk s.pbLen = false) →
    exec .polyMod s = .next (s.fail .lengthError))

/-- R165, R169: RS_GEN stores the monic polynomial of degree t that has the t distinct roots EXP[i], i < t (so
that it is the product of the factors x - EXP[i]), for every t in 0..255. -/
def Obligations.RsGenHasItsRoots : Prop :=
  ∀ t (s : State), ∃ g, exec (.rsGen t) s = .next (s.storePr g).succeed ∧ g.length = t.toNat + 1 ∧ g.headD 0 = 1 ∧
    ∀ i, i < t.toNat → evalAt g (gfExpTable (i % 255)) = 0

/-- R166, R170, R171(e): RS_ECC stores exactly t bytes that make data ++ ecc a codeword: it has the roots
EXP[0], ..., EXP[t - 1] and is divisible by gen(t). A bad length is LengthError. -/
def Obligations.RsEccMakesACodeword : Prop :=
  (∀ t (s : State), 1 ≤ t.toNat → polyLenOk s.paLen = true →
    ∃ e, exec (.rsEcc t) s = .next (s.storePr e).succeed ∧ e.length = t.toNat ∧
      (∀ i, i < t.toNat → evalAt (s.polyA ++ e) (gfExpTable i) = 0) ∧
      pmod (s.polyA ++ e) (gen t.toNat) = .ok [0]) ∧
  (∀ t (s : State), 1 ≤ t.toNat → polyLenOk s.paLen = false → exec (.rsEcc t) s = .next (s.fail .lengthError))

/-- R171(a), (b), (c): the laws of the polynomial product and remainder. -/
def Obligations.PolynomialLaws : Prop :=
  (∀ p d r, pmod p d = .ok r → pmod r d = .ok r) ∧
  (∀ p q, pmul p q = pmul q p) ∧ (∀ p q r, pmul (pmul p q) r = pmul p (pmul q r)) ∧
  (∀ p, pmul p [1] = polyNorm p) ∧ (∀ p d, isZero d = false → pmod (pmul p d) d = .ok [0])

/-! ### Tables and BCH words -/

/-- R190, R194, R196: for every legal version and level code, TBL_QUERY's two words spell the block list, its ECC
count and the count-field width, and nothing else changes. The first group is not empty; a second group's blocks
are one data codeword longer; where all blocks are equal there is no second group and RES1[23:0] = 0. -/
def Obligations.TblQueryReportsTheBlocks : Prop :=
  ∀ ecc ver (s : State), ecc.toNat ≤ 3 → 1 ≤ ver.toNat → ver.toNat ≤ 40 →
    ∃ w0 w1, exec (.tblQuery ecc ver) s = .next (s.setRes w0 w1).succeed ∧
      blockList ver.toNat (levelOf (ecc.setWidth 2)) =
        List.replicate (f0Field w0).toNat ((f1Field w0).toNat, (f2Field w0).toNat) ++
          List.replicate (f0Field w1).toNat ((f1Field w1).toNat, (f2Field w1).toNat) ∧
      1 ≤ (f0Field w0).toNat ∧
      ((f0Field w1).toNat = 0 ∨ (f2Field w1).toNat = (f2Field w0).toNat + 1) ∧
      ((∀ p ∈ blockList ver.toNat (levelOf (ecc.setWidth 2)),
        ∀ q ∈ blockList ver.toNat (levelOf (ecc.setWidth 2)), p = q) → w1.extractLsb' 0 24 = 0) ∧
      (f1Field w0).toNat = (f2Field w0).toNat + (opField w0).toNat ∧
      (opField w1).toNat = (if ver.toNat ≤ 9 then 8 else 16) ∧
      ((f0Field w1).toNat = 0 → f1Field w1 = 0 ∧ f2Field w1 = 0)

/-- R195, R197: for every legal version TBL_ALIGN's two words spell the list of alignment centers, padded with
zeros, and its length, and nothing else changes. -/
def Obligations.TblAlignReportsTheCenters : Prop :=
  ∀ ver (s : State), 1 ≤ ver.toNat → ver.toNat ≤ 40 →
    ∃ w0 w1, exec (.tblAlign ver) s = .next (s.setRes w0 w1).succeed ∧
      (opField w1).toNat = (alignCenters ver.toNat).length ∧
      [f0Field w0, f1Field w0, f2Field w0, opField w0, f0Field w1, f1Field w1, f2Field w1].map BitVec.toNat =
        alignCenters ver.toNat ++ List.replicate (7 - (alignCenters ver.toNat).length) 0

/-- R265, R268, R274, R275: QR_FMTBCH gives the 15-bit word that, with the mask 0x5412 taken off, holds the five
data bits on top and is divisible by G15; QR_VERBCH gives the 18-bit word that holds the version on top and is
divisible by G18. Nothing else changes. -/
def Obligations.BchCommandsGiveCodewords : Prop :=
  (∀ ecc mask (s : State), ecc.toNat ≤ 3 → mask.toNat ≤ 7 →
    ∃ w : Word, exec (.qrFmtBch ecc mask) s = .next (s.setRes0 w).succeed ∧
      (w.toNat ^^^ 0x5412) / 1024 = 8 * ecc.toNat + mask.toNat ∧
      ∃ q, q < 32 ∧ binaryProduct 0x537 q = w.toNat ^^^ 0x5412) ∧
  (∀ ver (s : State), ver.toNat ≤ 63 →
    ∃ w : Word, exec (.qrVerBch ver) s = .next (s.setRes0 w).succeed ∧
      w.toNat / 4096 = ver.toNat ∧ ∃ q, q < 64 ∧ binaryProduct 0x1F25 q = w.toNat)

/-! ### The bit buffer -/

/-- R205-R208: BB_PUT appends the low nbits bits of ARG0, most significant first, and BB_PUTBIT one bit; the
bits already held stay, and no byte but those of the appended bits changes. Too little room is BufferOverflow
(that a BB_LEN above 32768, which no run reaches, counts as a full buffer is the model's choice, log entry 11,
DESIGN CHOICE). BB_CLEAR empties the buffer. The premise BytesInv is the invariant of `BytesInvKept`. -/
def Obligations.BitBufferCommands : Prop :=
  (∀ (nbits : Byte) (s : State), s.BytesInv → nbits.toNat ≤ 32 → s.bbLen.toNat + nbits.toNat ≤ 32768 →
    ∃ t, exec (.bbPut nbits) s = .next t ∧ t.err = false ∧ t.bbLen.toNat = s.bbLen.toNat + nbits.toNat ∧
      (∀ p, p < s.bbLen.toNat → t.bbBit p = s.bbBit p) ∧
      (∀ k, k < nbits.toNat → t.bbBit (s.bbLen.toNat + k) = s.arg0.getLsbD (nbits.toNat - 1 - k)) ∧
      (∀ a, (∀ k, k < nbits.toNat → a ≠ Window.base .bb + (s.bbLen.toNat + k) / 8) →
        t.ramByte a = s.ramByte a)) ∧
  (∀ (bit : Byte) (s : State), s.BytesInv → bit.toNat ≤ 1 → s.bbLen.toNat < 32768 →
    ∃ t, exec (.bbPutBit bit) s = .next t ∧ t.err = false ∧ t.bbLen.toNat = s.bbLen.toNat + 1 ∧
      (∀ p, p < s.bbLen.toNat → t.bbBit p = s.bbBit p) ∧
      t.bbBit s.bbLen.toNat = decide (bit = 1) ∧
      (∀ a, a ≠ Window.base .bb + s.bbLen.toNat / 8 → t.ramByte a = s.ramByte a)) ∧
  (∀ (nbits : Byte) (s : State), nbits.toNat ≤ 32 → 32768 < s.bbLen.toNat + nbits.toNat →
    exec (.bbPut nbits) s = .next (s.fail .bufferOverflow)) ∧
  (∀ (bit : Byte) (s : State), bit.toNat ≤ 1 → 32768 ≤ s.bbLen.toNat →
    exec (.bbPutBit bit) s = .next (s.fail .bufferOverflow)) ∧
  (∀ (s : State), ∃ t, exec .bbClear s = .next t ∧ t.err = false ∧ t.bbLen = 0)

/-- R209: two puts are one put of the joined bits. -/
def Obligations.PutsConcatenate : Prop :=
  ∀ v w n m (s : State) t u, n + m ≤ 32 → appendBits (bitsOf v n) s = .ok t → appendBits (bitsOf w m) t = .ok u →
    appendBits (bitsOf (v % 2 ^ n * 2 ^ m + w % 2 ^ m) (n + m)) s = .ok u

/-! ### CRC-16 -/

/-- R332-R334: CRC_INIT gives 0xFFFF, CRC_BYTE one crcStep, CRC_BUF one crcStep for each byte of the INBUF range,
so that a range can be fed in two pieces; a range that does not lie in INBUF is RangeError. Nothing else
changes. -/
def Obligations.CrcCommandsFoldTheBytes : Prop :=
  (∀ (s : State), exec .crcInit s = .next (s.setCrc 0xFFFF).succeed) ∧
  (∀ b (s : State), exec (.crcByte b) s = .next (s.setCrc (crcStep s.crc b)).succeed) ∧
  (∀ (s : State), s.arg0.toNat ≤ 4095 → s.arg0.toNat + s.arg1.toNat ≤ 4096 →
    exec .crcBuf s = .next (s.setCrc (((List.range s.arg1.toNat).map
      (fun k => s.ramByte (0x03000 + s.arg0.toNat + k))).foldl crcStep s.crc)).succeed) ∧
  (∀ (s : State), (4095 < s.arg0.toNat ∨ 4096 < s.arg0.toNat + s.arg1.toNat) →
    exec .crcBuf s = .next (s.fail .rangeError)) ∧
  (∀ (s t u : State) (o : Word) (j k : Nat), o.toNat + j ≤ 4095 → o.toNat + j + k ≤ 4096 →
    exec .crcBuf ((s.setArg0 o).setArg1 (BitVec.ofNat 32 j)) = .next t →
    exec .crcBuf ((t.setArg0 (BitVec.ofNat 32 (o.toNat + j))).setArg1 (BitVec.ofNat 32 k)) = .next u →
    ∃ w, exec .crcBuf ((s.setArg0 o).setArg1 (BitVec.ofNat 32 (j + k))) = .next w ∧ w.crc = u.crc)

/-- R336: linearity over exclusive or; appending the register itself gives 0; the rule's example and vectors. -/
def Obligations.CrcLaws : Prop :=
  (∀ a b : List Byte, a.length = b.length →
    crc16 (List.zipWith (fun x y => x ^^^ y) a b) =
      crc16 a ^^^ crc16 b ^^^ crc16 (List.replicate a.length 0)) ∧
  (∀ s : List Byte,
    crc16 (s ++ [(crc16 s).extractLsb' 8 8, (crc16 s).extractLsb' 0 8]) = 0) ∧
  crc16 [0x31, 0x32, 0x33, 0x34, 0x35, 0x36, 0x37, 0x38, 0x39, 0x29, 0xB1] = 0x0000 ∧
  crc16 [0x30, 0x30, 0x30, 0x32, 0x30, 0x31] = 0x89B9 ∧
  crc16 [0x36, 0x33, 0x30, 0x34] = 0x6007 ∧
  crc16 [0x30, 0x30, 0x30, 0x32, 0x30, 0x31, 0x35, 0x38, 0x30, 0x32, 0x42, 0x52, 0x36, 0x33, 0x30, 0x34] =
    0xD1D4

/-! ### The symbol builder -/

/-- R221: the state table. A command with legal fields fails with SequenceError exactly where the table says SE
(QR_FINAL also with CHOSEN_VALID = 0, QR_PENALTY also with QR_SIZE = 0), and where it succeeds QRSTATE is the
table's next state. -/
def Obligations.BuilderStateTable : Prop :=
  ∀ i (s : State) t, i.wellFormed = true → exec i s = .next t →
    (t.errCode = 6 ↔ builderNext i s.qrState = none ∨ (i = .qrFinal ∧ s.chosenValid = false) ∨
      (i = .qrPenalty ∧ s.qrSize = 0)) ∧
    (t.errCode = 6 → t = s.fail .sequenceError) ∧
    (t.err = false → builderNext i s.qrState = some t.qrState)

/-- R222, R223: QR_CLEAR drops the build, the version and the segments. Every other register stays (STATUS and
ERRCODE stand apart: the completion writes them), and so do IRQ_EN, OVR and every byte of the windows but CW
and MATRIX. -/
def Obligations.QrClearDropsTheBuild : Prop :=
  ∀ (s : State), ∃ t, exec .qrClear s = .next t ∧ t.err = false ∧ t.noBuild ∧ t.qrState = .empty ∧ t.qrVer = 0 ∧
    t.segCount = 0 ∧ t.segs = Vector.replicate 8 ⟨0, 0⟩ ∧ t.cfg = s.cfg ∧ t.penalty = s.penalty ∧
    t.penR1 = s.penR1 ∧ t.penR2 = s.penR2 ∧ t.penR3 = s.penR3 ∧ t.penR4 = s.penR4 ∧ t.mscore = s.mscore ∧
    t.bbLen = s.bbLen ∧ (∀ k, k < 4096 → t.windowByte .bb k = s.windowByte .bb k) ∧
    (∀ k, k < 4096 → t.windowByte .inbuf k = s.windowByte .inbuf k) ∧
    t.irqEn = s.irqEn ∧ t.ovr = s.ovr ∧
    (∀ r, r ∉ [Reg.status, .errcode, .qrVer, .qrSize, .qrMask, .cwLen] → isSegReg r = false →
      t.readReg r = s.readReg r) ∧
    (∀ w k, w ≠ .cw → w ≠ .matrix → k < w.size → t.windowByte w k = s.windowByte w k)

/-- R224, R35: QR_CONFIG with legal fields, in Empty and DataAppended, puts the three fields in QR_CFG and changes
nothing else. -/
def Obligations.QrConfigWritesTheParameters : Prop :=
  ∀ mreq ecc vreq (s : State), mreq.toNat ≤ 8 → ecc.toNat ≤ 3 → vreq.toNat ≤ 40 →
    ((s.qrState = .empty ∨ s.qrState = .dataAppended) →
      ∃ c, exec (.qrConfig mreq ecc vreq) s = .next (s.setCfg c).succeed ∧
        ((s.setCfg c).readReg .qrCfg).toNat = vreq.toNat + 256 * ecc.toNat + 4096 * mreq.toNat) ∧
    (¬(s.qrState = .empty ∨ s.qrState = .dataAppended) →
      exec (.qrConfig mreq ecc vreq) s = .next (s.fail .sequenceError))

/-- R226, R223: QR_APPEND holds (ARG0, ARG1) as the next segment, keeps the others, and drops the build and the
version; the checks fail in the order state, range, room (that a SEG_COUNT of 9 to 15, which no run reaches,
counts as a full list is the model's choice, log entry 11, DESIGN CHOICE). -/
def Obligations.QrAppendHoldsTheSegment : Prop :=
  (∀ (s : State), s.qrState ≠ .matrixFinal → s.arg0.toNat ≤ 4095 → s.arg0.toNat + s.arg1.toNat ≤ 4096 →
    s.segCount.toNat < 8 →
    ∃ t, exec .qrAppend s = .next t ∧ t.err = false ∧ t.noBuild ∧ t.qrState = .dataAppended ∧ t.qrVer = 0 ∧
      t.segCount.toNat = s.segCount.toNat + 1 ∧
      (∀ k : Fin 8, k.val = s.segCount.toNat →
        (t.segs[k]).off.toNat = s.arg0.toNat ∧ (t.segs[k]).len.toNat = s.arg1.toNat) ∧
      (∀ k : Fin 8, k.val ≠ s.segCount.toNat → t.segs[k] = s.segs[k])) ∧
  (∀ (s : State), s.qrState = .matrixFinal → exec .qrAppend s = .next (s.fail .sequenceError)) ∧
  (∀ (s : State), s.qrState ≠ .matrixFinal → (4095 < s.arg0.toNat ∨ 4096 < s.arg0.toNat + s.arg1.toNat) →
    exec .qrAppend s = .next (s.fail .rangeError)) ∧
  (∀ (s : State), s.qrState ≠ .matrixFinal → s.arg0.toNat ≤ 4095 → s.arg0.toNat + s.arg1.toNat ≤ 4096 →
    8 ≤ s.segCount.toNat → exec .qrAppend s = .next (s.fail .bufferOverflow))

/-- R227-R229: with VREQ = 0 QR_SELVER takes the least version 1..40 the segments fit, DataTooLong if there is none;
with VREQ ≠ 0 it takes VREQ without a fit check. It drops the build. That the pseudocode decides also for seven or
eight empty segments at level H, version 2 where R229's corner case says version 1, is the model's choice (log
entry 21, DESIGN CHOICE). -/
def Obligations.QrSelVerTakesTheLeastVersion : Prop :=
  ∀ (s : State), (s.qrState = .dataAppended ∨ s.qrState.hasVersion = true) →
    (∀ v, s.cfg.vreq = 0 → 1 ≤ v → v ≤ 40 → s.fits v → (∀ u, 1 ≤ u → u < v → ¬s.fits u) →
      ∃ t, exec .qrSelVer s = .next t ∧ t.err = false ∧ t.qrVer.toNat = v ∧ t.noBuild ∧
        t.qrState = .versionChosen) ∧
    (s.cfg.vreq = 0 → (∀ v, 1 ≤ v → v ≤ 40 → ¬s.fits v) →
      exec .qrSelVer s = .next (s.fail .dataTooLong)) ∧
    (s.cfg.vreq ≠ 0 →
      ∃ t, exec .qrSelVer s = .next t ∧ t.err = false ∧ t.qrVer = s.cfg.vreq ∧ t.noBuild ∧
        t.qrState = .versionChosen)

/-- R230-R238: QR_CODEWORDS, when the segments fit the chosen version, leaves BB holding exactly the DC data
codewords, CW the TC bytes of the codeword sequence, and their lengths in BB_LEN and CW_LEN; when they do not
fit it is CodeLengthOverflow. The codeword sequence of DC data codewords has TC bytes; block j takes the next
`dataCount` of them in order, its ECC bytes e make x ++ e divisible by gen(t - d), and byte i of each stands
column by column: the data bytes first, then the ECC bytes (R233-R237). That the segments' lengths alone decide
whether they fit, so that new data in INBUF never makes the build overflow, is the model's choice against a
sentence of R393 on QR_CODEWORDS (log entry 20, DESIGN CHOICE). The premise RegInv is the invariant of
`RegInvKept`. -/
def Obligations.QrCodewordsBuildsTheSequence : Prop :=
  (∀ (s : State), s.RegInv → s.qrState.hasVersion = true →
    (s.fits s.qrVer.toNat →
      ∃ t d c, exec .qrCodewords s = .next t ∧ t.err = false ∧ t.cwValid = true ∧
        buildData (s.segList.map s.segBytes) s.qrVer.toNat (levelOf s.cfg.ecc) = .ok d ∧
        codewordSequence d (blockList s.qrVer.toNat (levelOf s.cfg.ecc)) = .ok c ∧
        d.length = dataCount s.qrVer.toNat (levelOf s.cfg.ecc) ∧
        c.length = totalCount s.qrVer.toNat (levelOf s.cfg.ecc) ∧
        t.bbLen.toNat = 8 * d.length ∧ t.cwData.toNat = d.length ∧ t.cwTotal.toNat = c.length ∧
        t.ramBytes (Window.base .bb) d.length = d ∧ t.codewords = c ∧
        t.qrState = s.qrState ∧ t.matrix = s.matrix ∧ t.qrSize = s.qrSize ∧ t.chosen = s.chosen) ∧
    (¬s.fits s.qrVer.toNat → exec .qrCodewords s = .next (s.fail .codeLengthOverflow))) ∧
  (∀ v lv (d : List Byte), 1 ≤ v → v ≤ 40 → d.length = dataCount v lv →
    ∃ out, codewordSequence d (blockList v lv) = .ok out ∧ out.length = totalCount v lv ∧
      ∀ j t k, (blockList v lv)[j]? = some (t, k) →
        ∃ x e : List Byte, x = (d.drop (((blockList v lv).take j).map (·.2)).sum).take k ∧ x.length = k ∧
          e.length = t - k ∧ pmod (x ++ e) (gen (t - k)) = .ok [0] ∧
          (∀ i, i < k → out[columnIndex ((blockList v lv).map (·.2)) j i]? = x[i]?) ∧
          (∀ i, i < t - k →
            out[dataCount v lv + columnIndex ((blockList v lv).map (fun b => b.1 - b.2)) j i]? = e[i]?))

/-- R230, R231: the data codewords carry the segments' bits in order, then zeros up to the next byte boundary
after a terminator of at most four bits, then the pad bytes 0xEC and 0x11 in turn. -/
def Obligations.DataCodewordsCarryTheSegments : Prop :=
  ∀ segs v lv d, buildData segs v lv = .ok d →
    d.length = dataCount v lv ∧
    ∃ z k, bytesToBits d = segs.flatMap (segBits v) ++ List.replicate z false ++
        bytesToBits ((List.range k).map (fun j => if j % 2 = 0 then 0xEC else 0x11)) ∧
      z < 12 ∧ (4 ≤ z ∨ k = 0)

/-- R273, R353: QR_LAYOUT puts layout(QR_VER, ECC, mask, codewords) in MATRIX, with its size, mask and test flag,
builds the codewords first where none are held, and keeps CHOSEN; the test flag changes no cell. Where none are
held and the segments do not fit, it is CodeLengthOverflow (their lengths alone decide: log entry 20). -/
def Obligations.QrLayoutPutsTheMatrix : Prop :=
  (∀ test mask (s : State), s.RegInv → s.qrState.hasVersion = true → s.canBuild → test.toNat ≤ 1 → mask.toNat ≤ 7 →
    ∃ t, exec (.qrLayout test mask) s = .next t ∧ t.err = false ∧
      t.matrix = layout s.qrVer.toNat s.cfg.ecc (mask.setWidth 3) s.layoutCodewords ∧
      t.qrSize.toNat = 4 * s.qrVer.toNat + 17 ∧ t.layoutMask.toNat = mask.toNat ∧
      t.layoutTest = decide (test = 1) ∧
      t.qrState = (if test = 1 then .matrixLaidOut else .matrixFinal) ∧
      t.cwValid = true ∧ t.codewords = s.layoutCodewords ∧
      t.chosen = s.chosen ∧ t.chosenValid = s.chosenValid) ∧
  (∀ test mask (s : State), s.qrState.hasVersion = true → ¬s.canBuild → test.toNat ≤ 1 → mask.toNat ≤ 7 →
    exec (.qrLayout test mask) s = .next (s.fail .codeLengthOverflow))

/-- R301-R306: QR_PENALTY puts the four parts and their sum in its five registers, with no loss to their 32 bits;
the matrix, its size, QRSTATE and MSCOREk stay. Of an n by n matrix of light and dark cells, P1 adds 3 + (k - 5)
for each maximal run of k ≥ 5 equal cells of a row or column, P2 is 3 for each 2 by 2 block of one colour, P3 is 40
for each start of the finder-like pattern in a row or column, P4 is 10 times the floor of |20 d - 10 N| / N, and
the score is their sum. The premises are the invariants of `RegInvKept` and `MatrixInvKept`. -/
def Obligations.QrPenaltyScoresTheMatrix : Prop :=
  (∀ (s : State), s.RegInv → s.MatrixInv → s.qrSize ≠ 0 →
    ∃ t, exec .qrPenalty s = .next t ∧ t.err = false ∧
      t.penR1.toNat = penalty1 s.matrix ∧ t.penR2.toNat = penalty2 s.matrix ∧
      t.penR3.toNat = penalty3 s.matrix ∧ t.penR4.toNat = penalty4 s.matrix ∧
      t.penalty.toNat = t.penR1.toNat + t.penR2.toNat + t.penR3.toNat + t.penR4.toNat ∧
      t.matrix = s.matrix ∧ t.qrSize = s.qrSize ∧ t.qrState = s.qrState ∧ t.mscore = s.mscore) ∧
  (∀ n g, resolved n g →
    (∃ rows cols : Nat → List (QrCell × Nat),
      (∀ r, r < n → splitsIntoRuns (rowLine n g r) (rows r)) ∧
      (∀ c, c < n → splitsIntoRuns (columnLine n g c) (cols c)) ∧
      penalty1 g = sumBelow n (fun r => runPoints (rows r)) + sumBelow n (fun c => runPoints (cols c))) ∧
    penalty2 g = 3 * equalBlocks n g ∧
    penalty3 g = 40 * (sumBelow n (fun r => patternStarts n (rowLine n g r)) +
      sumBelow n (fun c => patternStarts n (columnLine n g c))) ∧
    penalty4 g = 10 * (((20 * darkCells n g - 10 * (n * n)) + (10 * (n * n) - 20 * darkCells n g)) / (n * n)) ∧
    score g = penalty1 g + penalty2 g + penalty3 g + penalty4 g)

/-- R310, R311, R313(b): automatic QR_MASKSEL scores the eight layouts, chooses the lowest score, the least index
among equals, reports the winner's score, and leaves trial 7 in MATRIX; with a fixed MREQ it only chooses.
R353: automatic, with no codewords held and segments that do not fit, it is CodeLengthOverflow (their lengths
alone decide: log entry 20). -/
def Obligations.QrMaskSelChoosesTheBestMask : Prop :=
  (∀ (s : State), s.RegInv → s.qrState.hasVersion = true → s.cfg.mreq = 8 → s.canBuild →
    ∃ t, exec .qrMaskSel s = .next t ∧ t.err = false ∧ t.qrState = .maskChosen ∧ t.chosenValid = true ∧
      (∀ k : Fin 8, (t.mscore[k]).toNat =
        score (layout s.qrVer.toNat s.cfg.ecc (BitVec.ofNat 3 k.val) s.layoutCodewords)) ∧
      (∀ k : Fin 8, t.chosenScore.toNat ≤ (t.mscore[k]).toNat) ∧
      (∀ k : Fin 8, k.val < t.chosen.toNat → t.chosenScore.toNat < (t.mscore[k]).toNat) ∧
      t.penalty = t.chosenScore ∧
      t.penR1.toNat = penalty1 (layout s.qrVer.toNat s.cfg.ecc t.chosen s.layoutCodewords) ∧
      t.penR2.toNat = penalty2 (layout s.qrVer.toNat s.cfg.ecc t.chosen s.layoutCodewords) ∧
      t.penR3.toNat = penalty3 (layout s.qrVer.toNat s.cfg.ecc t.chosen s.layoutCodewords) ∧
      t.penR4.toNat = penalty4 (layout s.qrVer.toNat s.cfg.ecc t.chosen s.layoutCodewords) ∧
      t.matrix = layout s.qrVer.toNat s.cfg.ecc 7 s.layoutCodewords ∧
      t.qrSize.toNat = 4 * s.qrVer.toNat + 17 ∧ t.layoutMask = 7 ∧ t.layoutTest = true ∧
      t.cwValid = true ∧ t.codewords = s.layoutCodewords) ∧
  (∀ (s : State), s.qrState.hasVersion = true → s.cfg.mreq.toNat ≤ 7 →
    ∃ m : BitVec 3, m.toNat = s.cfg.mreq.toNat ∧
      exec .qrMaskSel s = .next ((s.choose m).setQrState .maskChosen).succeed) ∧
  (∀ (s : State), s.qrState.hasVersion = true → s.cfg.mreq = 8 → ¬s.canBuild →
    exec .qrMaskSel s = .next (s.fail .codeLengthOverflow))

/-- R312: QR_FINAL puts the layout with the chosen mask in MATRIX and ends in MatrixFinal; it keeps the penalties,
MSCOREk and CHOSEN. R353: with no codewords held and segments that do not fit it is CodeLengthOverflow
(their lengths alone decide: log entry 20). -/
def Obligations.QrFinalPutsTheChosenMatrix : Prop :=
  (∀ (s : State), s.RegInv → s.qrState.hasVersion = true → s.chosenValid = true → s.canBuild →
    ∃ t, exec .qrFinal s = .next t ∧ t.err = false ∧ t.qrState = .matrixFinal ∧
      t.matrix = layout s.qrVer.toNat s.cfg.ecc s.chosen s.layoutCodewords ∧
      t.qrSize.toNat = 4 * s.qrVer.toNat + 17 ∧ t.layoutMask = s.chosen ∧ t.layoutTest = false ∧
      t.cwValid = true ∧ t.codewords = s.layoutCodewords ∧ t.chosen = s.chosen ∧ t.chosenValid = true ∧
      t.penalty = s.penalty ∧ t.mscore = s.mscore) ∧
  (∀ (s : State), s.qrState.hasVersion = true → s.chosenValid = true → ¬s.canBuild →
    exec .qrFinal s = .next (s.fail .codeLengthOverflow))

/-- R313(c): after an automatic QR_MASKSEL, QR_FINAL and then QR_PENALTY give PENALTY = MSCORE[CHOSEN]. -/
def Obligations.FinalMatrixScoresAsTheWinner : Prop :=
  ∀ (s : State), s.RegInv → s.qrState.hasVersion = true → s.cfg.mreq = 8 → s.canBuild →
    ∃ a b c, exec .qrMaskSel s = .next a ∧ a.err = false ∧ exec .qrFinal a = .next b ∧ b.err = false ∧
      exec .qrPenalty b = .next c ∧ c.err = false ∧
      c.penalty = a.chosenScore ∧ c.mscore = a.mscore ∧ c.chosen = a.chosen

/-- R239: from DataAppended QR_MAKE succeeds exactly when QR_SELVER, QR_CODEWORDS, QR_MASKSEL and QR_FINAL succeed
one after another, and then it leaves exactly the same state. -/
def Obligations.QrMakeIsThePipeline : Prop :=
  ∀ (s : State) d, s.qrState = .dataAppended →
    ((exec .qrMake s = .next d ∧ d.err = false) ↔
      runAll [.qrSelVer, .qrCodewords, .qrMaskSel, .qrFinal] s = some d)

/-- R239: QR_MAKE finishes the symbol wherever the data fit: MatrixFinal, the layout with the chosen mask in
MATRIX, a choice made before kept, a fixed MREQ chosen. Where they do not fit (R352, R353): DataTooLong if the
version is to be selected automatically and none fits, CodeLengthOverflow if it is fixed, or chosen already with
no codewords held (the segments' lengths alone decide what fits: log entries 20 and 21). -/
def Obligations.QrMakeFinishesTheSymbol : Prop :=
  (∀ (s : State), s.RegInv → s.canMake →
    ∃ t, exec .qrMake s = .next t ∧ t.err = false ∧ t.qrState = .matrixFinal ∧ t.chosenValid = true ∧
      t.cwValid = true ∧ 1 ≤ t.qrVer.toNat ∧ t.qrVer.toNat ≤ 40 ∧
      t.qrSize.toNat = 4 * t.qrVer.toNat + 17 ∧ t.layoutMask = t.chosen ∧ t.layoutTest = false ∧
      t.matrix = layout t.qrVer.toNat t.cfg.ecc t.chosen t.codewords ∧ t.cfg = s.cfg ∧
      (s.chosenValid = true → t.chosen = s.chosen) ∧
      (s.chosenValid = false → s.cfg.mreq.toNat ≤ 7 → t.chosen.toNat = s.cfg.mreq.toNat) ∧
      (s.qrState = .dataAppended → s.cfg.vreq ≠ 0 → t.qrVer = s.cfg.vreq) ∧
      (s.qrState.hasVersion = true → t.qrVer = s.qrVer)) ∧
  (∀ (s : State), s.qrState = .dataAppended → s.cfg.vreq = 0 → (∀ v, 1 ≤ v → v ≤ 40 → ¬s.fits v) →
    exec .qrMake s = .next (s.fail .dataTooLong)) ∧
  (∀ (s : State), s.qrState = .dataAppended → s.cfg.vreq ≠ 0 → ¬s.fits s.cfg.vreq.toNat →
    exec .qrMake s = .next (s.fail .codeLengthOverflow)) ∧
  (∀ (s : State), s.qrState.hasVersion = true → ¬s.canBuild →
    exec .qrMake s = .next (s.fail .codeLengthOverflow))

/-! ### The module matrix -/

/-- R285: after a layout every cell of the n by n matrix is light or dark; column 6 is set before the data are
mapped, and the zigzag visits every cell of every other column. -/
def Obligations.LayoutResolvesEveryCell : Prop :=
  ∀ v e m c, 1 ≤ v → v ≤ 40 →
    resolved (4 * v + 17) (layout v e m c) ∧
    (∀ r, r < 4 * v + 17 → Grid.get (functionPatterns v e m) r 6 ≠ .unset) ∧
    (∀ r k, r < 4 * v + 17 → k < 4 * v + 17 → k ≠ 6 → (r, k) ∈ zigzag (4 * v + 17))

/-- R262-R264, R267: in every layout the finders with their separators, the alignment patterns, the timing
patterns and the dark module stand as the rules place them. -/
def Obligations.FunctionPatternsStand : Prop :=
  ∀ v e m c, 1 ≤ v → v ≤ 40 →
    (∀ r0 c0 : Nat, ((r0 = 0 ∧ c0 = 0) ∨ (r0 = 4 * v + 10 ∧ c0 = 0) ∨ (r0 = 0 ∧ c0 = 4 * v + 10)) →
      ∀ r k : Int, -1 ≤ r → r ≤ 7 → -1 ≤ k → k ≤ 7 → 0 ≤ r0 + r → r0 + r < 4 * v + 17 → 0 ≤ c0 + k →
        c0 + k < 4 * v + 17 →
        Grid.get (layout v e m c) (r0 + r).toNat (c0 + k).toNat =
          cellOf (decide ((0 ≤ r ∧ r ≤ 6 ∧ (k = 0 ∨ k = 6)) ∨ (0 ≤ k ∧ k ≤ 6 ∧ (r = 0 ∨ r = 6)) ∨
            (2 ≤ r ∧ r ≤ 4 ∧ 2 ≤ k ∧ k ≤ 4)))) ∧
    (∀ r ∈ alignCenters v, ∀ k ∈ alignCenters v,
      ¬(r = 6 ∧ k = 6) → ¬(r = 6 ∧ k = 4 * v + 10) → ¬(r = 4 * v + 10 ∧ k = 6) →
      ∀ dr dc : Int, -2 ≤ dr → dr ≤ 2 → -2 ≤ dc → dc ≤ 2 →
        Grid.get (layout v e m c) (r + dr).toNat (k + dc).toNat =
          cellOf (decide (dr.natAbs = 2 ∨ dc.natAbs = 2 ∨ (dr = 0 ∧ dc = 0)))) ∧
    (∀ k, 8 ≤ k → k ≤ 4 * v + 8 →
      Grid.get (layout v e m c) k 6 = cellOf (decide (k % 2 = 0)) ∧
      Grid.get (layout v e m c) 6 k = cellOf (decide (k % 2 = 0))) ∧
    Grid.get (layout v e m c) (4 * v + 9) 8 = .dark

/-- R266, R269: in every layout both copies of the format word, and from version 7 on both copies of the version
word, stand in their cells. -/
def Obligations.FormatAndVersionWordsStand : Prop :=
  ∀ v e m c, 1 ≤ v → v ≤ 40 →
    (∀ i, i < 15 →
      Grid.get (layout v e m c) (if i ≤ 5 then i else if i = 6 then 7 else 8)
        (if i ≤ 7 then 8 else if i = 8 then 7 else 14 - i) = cellOf ((bchFormat e m).testBit i)) ∧
    (∀ i, i < 8 → Grid.get (layout v e m c) 8 (4 * v + 16 - i) = cellOf ((bchFormat e m).testBit i)) ∧
    (∀ i, 8 ≤ i → i < 15 →
      Grid.get (layout v e m c) (4 * v + 2 + i) 8 = cellOf ((bchFormat e m).testBit i)) ∧
    (7 ≤ v → ∀ i, i < 18 →
      Grid.get (layout v e m c) (i / 3) (4 * v + 6 + i % 3) = cellOf ((bchVersion v).testBit i) ∧
      Grid.get (layout v e m c) (4 * v + 6 + i % 3) (i / 3) = cellOf ((bchVersion v).testBit i))

/-- R270, R271: the cells the function patterns leave unset, in zigzag order, carry the codeword bits, most
significant bit of each byte first and zeros after the last, each flipped where the mask predicate holds; every
other cell stays as the function patterns have it. -/
def Obligations.DataCellsCarryTheCodewords : Prop :=
  ∀ v e m c, 1 ≤ v → v ≤ 40 →
    (∀ k r j, ((zigzag (4 * v + 17)).filter
        (fun p => decide (Grid.get (functionPatterns v e m) p.1 p.2 = .unset)))[k]? = some (r, j) →
      Grid.get (layout v e m c) r j = cellOf ((bytesToBits c).getD k false ^^ maskFn m r j)) ∧
    (∀ r j, r < 4 * v + 17 → j < 4 * v + 17 → Grid.get (functionPatterns v e m) r j ≠ .unset →
      Grid.get (layout v e m c) r j = Grid.get (functionPatterns v e m) r j)

/-- R59, R221: in state MatrixFinal no command changes MATRIX or QR_SIZE, but QR_CLEAR, which drops the matrix. -/
def Obligations.MatrixFinalIsImmutable : Prop :=
  ∀ i (s : State) t, s.qrState = .matrixFinal → i ≠ .qrClear → exec i s = .next t →
    t.matrix = s.matrix ∧ t.qrSize = s.qrSize ∧ t.qrState = .matrixFinal

/-! ### The host port -/

/-- R380, R381: after power-on every register reads its reset value, every MATRIX cell reads 0, nothing is pending
and the hidden state is clear. That no RAM byte is listed is the model's choice for the unspecified bytes of R380
(log entry 4, DESIGN CHOICE). -/
def Obligations.PowerOnReset : Prop :=
  (∀ r, State.reset.readReg r =
    match r with
    | .id => 0x47465152
    | .qrCfg => 0x00008000
    | .crc => 0x0000FFFF
    | _ => 0) ∧
  (∀ k, State.reset.matrixByte k = 0) ∧ (∀ a, State.reset.mem.read a = none) ∧
  State.reset.busy = false ∧ State.reset.irq = false ∧ State.reset.qrState = .empty ∧
  State.reset.cwValid = false ∧ State.reset.chosen = 0 ∧ State.reset.chosenValid = false

/-- R382, R383: a write of CTRL with SRST = 1, at any time and whatever IRQ_EN is, leaves every register and the
hidden state as after power-on, abandons a pending command, and keeps the bytes of PA, PB and INBUF. -/
def Obligations.SoftResetRestoresTheRegisters : Prop :=
  ∀ (s : State) ts (v : Word), s.turns = .host (.write .full 0x004 v) :: ts → v.getLsbD 0 = true →
    ∃ t, step s = .next t ∧ t.turns = ts ∧ (∀ r, t.readReg r = State.reset.readReg r) ∧
      t.busy = false ∧ t.irq = false ∧ t.qrState = .empty ∧ t.cwValid = false ∧ t.chosen = 0 ∧
      t.chosenValid = false ∧ (∀ k, t.matrixByte k = 0) ∧
      (∀ k, k < 256 → t.windowByte .pa k = s.windowByte .pa k ∧ t.windowByte .pb k = s.windowByte .pb k) ∧
      (∀ k, k < 4096 → t.windowByte .inbuf k = s.windowByte .inbuf k)

/-- R26, R27, R30, R32: what a host write of each writable register does besides CMD and the soft reset: CTRL sets
IRQ_EN, STATUS clears DONE, ERR and OVR where the written bit is 1, busy or not; ARG0, ARG1, PA_LEN and PB_LEN
take the value while BUSY = 0. -/
def Obligations.HostWritesOfRegisters : Prop :=
  (∀ (s : State) (v : Word), v.getLsbD 0 = false → hostAccess (.write .full 0x004 v) s =
    .next { s with irqEn := v.getLsbD 1, resp := .wrote }) ∧
  (∀ (s : State) (v : Word), hostAccess (.write .full 0x008 v) s =
    .next { s with
      done := s.done && !v.getLsbD 1, err := s.err && !v.getLsbD 2, ovr := s.ovr && !v.getLsbD 3,
      resp := .wrote }) ∧
  (∀ (s : State) (v : Word), s.busy = false →
    hostAccess (.write .full 0x014 v) s = .next { s with arg0 := v, resp := .wrote } ∧
    hostAccess (.write .full 0x018 v) s = .next { s with arg1 := v, resp := .wrote } ∧
    hostAccess (.write .full 0x024 v) s = .next { s with paLen := v.setWidth 9, resp := .wrote } ∧
    hostAccess (.write .full 0x028 v) s = .next { s with pbLen := v.setWidth 9, resp := .wrote })

/-- R360: irq is IRQ_EN and DONE: every completion, an undecodable word's too, raises it where enabled; acceptance,
a STATUS write of DONE's bit and IRQ_EN = 0 lower it; IRQ_EN = 1 while DONE = 1 raises it at once; a soft reset
clears it. Over a step a high line stays high but for those events, and a low line rises only at a completion
with IRQ_EN = 1 or at a write of IRQ_EN = 1 while DONE = 1. That a list of turns at its end means the engine's
turn, so that a completion happens there, is the model's choice (log entry 2, DESIGN CHOICE). -/
def Obligations.InterruptLine : Prop :=
  (∀ s : State, s.irq = (s.irqEn && s.done)) ∧
  (∀ i (s : State) t, exec i s = .next t → t.irq = s.irqEn) ∧
  (∀ (s : State) w, (s.accept w).irq = false) ∧
  (∀ (s : State) (v : Word), v.getLsbD 1 = true → (s.clearStatus v).irq = false) ∧
  (∀ (s : State), (s.setIrqEn false).irq = false ∧ (s.setIrqEn true).irq = s.done ∧ s.softReset.irq = false) ∧
  (∀ (s : State), ∃ t, engineStep s = .next t ∧ t.irq = s.irqEn) ∧
  (∀ (s : State) t, step s = .next t → s.irq = true →
    (t.irq = false ↔
      (∃ v ts, s.turns = .host (.write .full 0x008 v) :: ts ∧ v.getLsbD 1 = true) ∨
      (∃ w ts, s.turns = .host (.write .full 0x010 w) :: ts ∧ s.busy = false) ∨
      (∃ v ts, s.turns = .host (.write .full 0x004 v) :: ts ∧ (v.getLsbD 0 = true ∨ v.getLsbD 1 = false)))) ∧
  (∀ (s : State) t, step s = .next t → s.irq = false →
    (t.irq = true ↔
      ((s.turns = [] ∨ ∃ ts, s.turns = .engine :: ts) ∧ s.busy = true ∧ s.irqEn = true) ∨
      (∃ v ts, s.turns = .host (.write .full 0x004 v) :: ts ∧ v.getLsbD 0 = false ∧ v.getLsbD 1 = true ∧
        s.done = true)))

/-- R65: a write that the address map admits of a read-only register, of a reserved register offset, or of a
read-only window changes nothing, busy or not. -/
def Obligations.ReadOnlyWritesAreIgnored : Prop :=
  (∀ (s : State) width (off : Offset) v r, targetOf width off.toNat = .ok (.reg r) →
    r ∉ [Reg.ctrl, .status, .cmd, .arg0, .arg1, .paLen, .pbLen] →
    hostAccess (.write width off v) s = .next (s.respond .wrote)) ∧
  (∀ (s : State) width (off : Offset) v w k, targetOf width off.toNat = .ok (.win w k) →
    w ∈ [Window.exp, .log, .pr, .bb, .cw, .matrix] →
    hostAccess (.write width off v) s = .next (s.respond .wrote))

/-- R62, R68, R69: a write of PA, PB or INBUF while BUSY = 0 stores its bytes, bits [7:0] at the lowest offset, a read
of the same width gives the value back, and no other byte of any window and no register changes. -/
def Obligations.WindowWriteThenRead : Prop :=
  ∀ (s : State) (width : Width) (w : Window) (k : Nat) v, s.busy = false → w ∈ [Window.pa, .pb, .inbuf] → k % width.bytes = 0 →
    k + width.bytes ≤ w.size →
    ∃ t, hostAccess (.write width (BitVec.ofNat 17 (w.base + k)) v) s = .next t ∧
      (∀ j, j < width.bytes → t.windowByte w (k + j) = v.extractLsb' (8 * j) 8) ∧
      (∀ off, (off < w.base + k ∨ w.base + k + width.bytes ≤ off) → t.byteAt off = s.byteAt off) ∧
      (∀ r, t.readReg r = s.readReg r) ∧
      hostAccess (.read width (BitVec.ofNat 17 (w.base + k))) t =
        .next (t.respond (.value (BitVec.ofNat 32 (v.toNat % 2 ^ (8 * width.bytes)))))

/-- R24, R73, R76, R390: an admitted read changes nothing. It answers the current value while BUSY = 0, and while
BUSY = 1 of everything the pending command may not write; of what it may write it then answers a free value
(the statement holds whatever the value is). ID, CTRL, STATUS and ERRCODE are always defined, and what some
command may write is exactly R76's list. That `may write` means the pending command's own list, taken whole, and
that a word which fails a check of R94 writes nothing, is log entry 6 (DEDUCED). -/
def Obligations.ReadsChangeNothing : Prop :=
  (∀ (s : State) width (off : Offset) tg, targetOf width off.toNat = .ok tg →
    (∀ i, s.busy = true → decode s.latch = .ok i → i.wellFormed = true → tg.writtenBy i = false) →
    hostAccess (.read width off) s = .next (s.respond (.value (s.readTarget width tg)))) ∧
  (∀ (s : State) width (off : Offset) tg i, targetOf width off.toNat = .ok tg → s.busy = true →
    decode s.latch = .ok i → i.wellFormed = true → tg.writtenBy i = true →
    ∃ v : Word, v.toNat < 2 ^ (8 * width.bytes) ∧
      hostAccess (.read width off) s = .next { s with resp := .value v, draws := s.draws + 1 }) ∧
  (∀ r, listedReg r = true ↔ ∃ i : Instr, i.wellFormed = true ∧ writesReg i r = true) ∧
  (∀ w, listedWindow w = true ↔ ∃ i : Instr, i.wellFormed = true ∧ writesWindow i w = true) ∧
  (∀ (s : State), hostAccess (.read .full 0x000) s = .next (s.respond (.value 0x47465152)) ∧
    hostAccess (.read .full 0x004) s = .next (s.respond (.value s.ctrlWord)) ∧
    hostAccess (.read .full 0x008) s = .next (s.respond (.value s.statusWord)) ∧
    hostAccess (.read .full 0x00C) s = .next (s.respond (.value s.errcodeWord)))

/-- R63, R64, R66, R76, R356: which accesses stop: those of an unmapped offset, misaligned ones or ones of the wrong
width or across a window's end, and a write of an operand while BUSY = 1. That the model stops at either fault, and
that a misaligned write of an operand while BUSY = 1 is a bus error and no HostHazard, is log entry 7 (DEDUCED). -/
def Obligations.AccessesThatStop : Prop :=
  (∀ (s : State) width (off : Offset) v, 0x200 ≤ off.toNat → ¬(0x01000 ≤ off.toNat ∧ off.toNat < 0x01200) →
    ¬(0x02000 ≤ off.toNat ∧ off.toNat < 0x02300) → ¬(0x03000 ≤ off.toNat ∧ off.toNat < 0x06000) →
    ¬(0x10000 ≤ off.toNat ∧ off.toNat < 0x1B100) →
    hostAccess (.read width off) s = .fault (.busError off .unmapped) ∧
    hostAccess (.write width off v) s = .fault (.busError off .unmapped)) ∧
  (∀ (s : State) width (off : Offset) v, off.toNat < 0x200 → (width ≠ .full ∨ off.toNat % 4 ≠ 0) →
    hostAccess (.read width off) s = .fault (.busError off .misaligned) ∧
    hostAccess (.write width off v) s = .fault (.busError off .misaligned)) ∧
  (∀ (s : State) width (off : Offset) v (w : Window), w.holds off.toNat = true →
    (off.toNat % width.bytes ≠ 0 ∨ w.base + w.size < off.toNat + width.bytes) →
    hostAccess (.read width off) s = .fault (.busError off .misaligned) ∧
    hostAccess (.write width off v) s = .fault (.busError off .misaligned)) ∧
  (∀ (s : State) (v : Word), s.busy = true →
    hostAccess (.write .full 0x014 v) s = .fault (.hostHazard 0x014) ∧
    hostAccess (.write .full 0x018 v) s = .fault (.hostHazard 0x018) ∧
    hostAccess (.write .full 0x024 v) s = .fault (.hostHazard 0x024) ∧
    hostAccess (.write .full 0x028 v) s = .fault (.hostHazard 0x028)) ∧
  (∀ (s : State) (width : Width) (w : Window) (k : Nat) v, s.busy = true → w ∈ [Window.pa, .pb, .inbuf] → k % width.bytes = 0 →
    k + width.bytes ≤ w.size →
    hostAccess (.write width (BitVec.ofNat 17 (w.base + k)) v) s =
      .fault (.hostHazard (BitVec.ofNat 17 (w.base + k))))

/-! ### Frames and invariants -/

/-- The frame of every command (the "Registers written" lines of spec/41 to spec/47; R30, R31, R57, R124): IRQ_EN,
OVR, LATCH and the model's turns stay; every register outside the command's list reads as before (STATUS and
ERRCODE stand apart: the completion writes them); every byte of a window outside its list reads as before; and
the builder's hidden state stays unless the command is one that builds. -/
def Obligations.CommandFrame : Prop :=
  ∀ i (s : State) t, exec i s = .next t →
    t.irqEn = s.irqEn ∧ t.ovr = s.ovr ∧ t.latch = s.latch ∧ t.turns = s.turns ∧ t.resp = s.resp ∧
    t.draws = s.draws ∧
    (∀ r, r ≠ .status → r ≠ .errcode → writesReg i r = false → t.readReg r = s.readReg r) ∧
    (∀ w k, k < w.size → writesWindow i w = false → t.windowByte w k = s.windowByte w k) ∧
    (writesBuild i = false → t.cwValid = s.cwValid ∧ t.chosen = s.chosen ∧ t.chosenValid = s.chosenValid ∧
      t.qrState = s.qrState)

/-- The state after power-on reset meets the four invariants. -/
def Obligations.ResetMeetsTheInvariants : Prop :=
  State.reset.RegInv ∧ State.reset.StatusInv ∧ State.reset.BytesInv ∧ State.reset.MatrixInv

/-- R32-R44, R53-R55, R221, R223: every step keeps the relations between the builder's registers, from every state
that meets them. -/
def Obligations.RegInvKept : Prop := ∀ (s : State) t, s.RegInv → step s = .next t → t.RegInv

/-- R27, R28, R121, R123: every step keeps the relations between BUSY, DONE, ERR and ERRCODE. -/
def Obligations.StatusInvKept : Prop := ∀ (s : State) t, s.StatusInv → step s = .next t → t.StatusInv

/-- R68, R71, R72, R205: every step keeps the list of RAM bytes canonical and inside the RAM windows, with at least
every specified byte listed and the bit buffer's last byte zero beyond BB_LEN. (The list itself, and what an
unlisted byte reads as, are the model's, log entries 4 and 5.) The premise RegInv rules out a BB_LEN above 32768,
which would reach beyond BB. -/
def Obligations.BytesInvKept : Prop :=
  ∀ (s : State) t, s.RegInv → s.BytesInv → step s = .next t → t.BytesInv

/-- R59, R70, R285: every step keeps MATRIX either absent or a resolved matrix of QR_SIZE rows. The premise RegInv
rules out versions above 40. -/
def Obligations.MatrixInvKept : Prop := ∀ (s : State) t, s.RegInv → s.MatrixInv → step s = .next t → t.MatrixInv

end
end

