-- ==== Sys2Proof/Laws/Decode.lean ====
section
/-! SUPPORT. The fields of a word and the word of its fields (spec/30_encoding.md R91). -/

namespace Sys2Proof

/-- Every bit of a word made of four bytes. -/
theorem getLsbD_word (b3 b2 b1 b0 : Byte) (j : Nat) :
    (word b3 b2 b1 b0).getLsbD j =
      if j < 8 then b0.getLsbD j
      else if j - 8 < 8 then b1.getLsbD (j - 8)
      else if j - 8 - 8 < 8 then b2.getLsbD (j - 8 - 8) else b3.getLsbD (j - 8 - 8 - 8) := by
  show BitVec.getLsbD (w := 8 + 8 + 8 + 8) (b3 ++ b2 ++ b1 ++ b0) j = _
  rw [BitVec.getLsbD_append]
  split
  · rfl
  · rw [BitVec.getLsbD_append]
    split
    · rfl
    · rw [BitVec.getLsbD_append]

@[simp] theorem opField_word (b3 b2 b1 b0 : Byte) : opField (word b3 b2 b1 b0) = b3 := by
  apply BitVec.eq_of_getLsbD_eq
  intro i hi
  rw [opField, BitVec.getLsbD_extractLsb', getLsbD_word, if_neg (by omega), if_neg (by omega),
    if_neg (by omega), show 24 + i - 8 - 8 - 8 = i by omega]
  simp [hi]

@[simp] theorem f2Field_word (b3 b2 b1 b0 : Byte) : f2Field (word b3 b2 b1 b0) = b2 := by
  apply BitVec.eq_of_getLsbD_eq
  intro i hi
  rw [f2Field, BitVec.getLsbD_extractLsb', getLsbD_word, if_neg (by omega), if_neg (by omega),
    if_pos (by omega), show 16 + i - 8 - 8 = i by omega]
  simp [hi]

@[simp] theorem f1Field_word (b3 b2 b1 b0 : Byte) : f1Field (word b3 b2 b1 b0) = b1 := by
  apply BitVec.eq_of_getLsbD_eq
  intro i hi
  rw [f1Field, BitVec.getLsbD_extractLsb', getLsbD_word, if_neg (by omega), if_pos (by omega),
    show 8 + i - 8 = i by omega]
  simp [hi]

@[simp] theorem f0Field_word (b3 b2 b1 b0 : Byte) : f0Field (word b3 b2 b1 b0) = b0 := by
  apply BitVec.eq_of_getLsbD_eq
  intro i hi
  rw [f0Field, BitVec.getLsbD_extractLsb', getLsbD_word, if_pos (by omega), Nat.zero_add]
  simp [hi]

theorem word_fields (w : Word) : word (opField w) (f2Field w) (f1Field w) (f0Field w) = w := by
  apply BitVec.eq_of_getLsbD_eq
  intro i hi
  simp only [getLsbD_word, opField, f2Field, f1Field, f0Field, BitVec.getLsbD_extractLsb']
  by_cases h1 : i < 8
  · simp [h1]
  · by_cases h2 : i < 16
    · rw [if_neg h1, if_pos (by omega), show 8 + (i - 8) = i by omega]
      simp [show i - 8 < 8 by omega]
    · by_cases h3 : i < 24
      · rw [if_neg h1, if_neg (by omega), if_pos (by omega), show 16 + (i - 8 - 8) = i by omega]
        simp [show i - 8 - 8 < 8 by omega]
      · rw [if_neg h1, if_neg (by omega), if_neg (by omega), show 24 + (i - 8 - 8 - 8) = i by omega]
        simp [show i - 8 - 8 - 8 < 8 by omega]

end Sys2Proof
end

