-- ==== Sys2Proof/Laws/Memory.lean ====
section
/-! SUPPORT. The memory laws: what a byte reads as after each memory operation, and that every operation keeps
the canonical form. -/

namespace Sys2Proof.Machine.Memory

/-! ### Reading after an operation -/

@[simp] theorem read_nil (a : Nat) : Memory.read [] a = none := rfl

theorem read_cons (k a : Nat) (v : Byte) (m : Memory) :
    Memory.read ((k, v) :: m) a = if k = a then some v else m.read a := rfl

theorem read_write_same (m : Memory) (a : Nat) (b : Byte) : (m.write a b).read a = some b := by
  induction m with
  | nil => simp [Memory.write, Memory.read]
  | cons c m ih =>
    obtain ⟨k, v⟩ := c
    simp only [Memory.write]
    split
    · simp [Memory.read]
    · split
      · simp [Memory.read]
      · rename_i h1 h2
        rw [read_cons, if_neg (fun h => h2 h.symm), ih]

theorem read_write_other (m : Memory) {a x : Nat} (b : Byte) (h : x ≠ a) :
    (m.write a b).read x = m.read x := by
  induction m with
  | nil => simp [Memory.write, Memory.read, h.symm]
  | cons c m ih =>
    obtain ⟨k, v⟩ := c
    simp only [Memory.write]
    split
    · rw [read_cons, if_neg h.symm]
    · split
      · rename_i h1 h2
        rw [read_cons, if_neg h.symm, read_cons, if_neg (by omega)]
      · rw [read_cons, read_cons, ih]

theorem read_writeAll (m : Memory) (a x : Nat) (l : List Byte) :
    (m.writeAll a l).read x = if a ≤ x ∧ x < a + l.length then l[x - a]? else m.read x := by
  induction l generalizing m a with
  | nil =>
    rw [if_neg (by simp only [List.length_nil]; omega)]
    rfl
  | cons b l ih =>
    rw [Memory.writeAll, ih]
    rcases Nat.lt_trichotomy x a with h | h | h
    · rw [if_neg (by omega), if_neg (by omega), read_write_other _ _ (by omega)]
    · subst h
      rw [if_neg (by omega), read_write_same]
      simp
    · by_cases h2 : x < a + 1 + l.length
      · rw [if_pos (by omega), if_pos (by simp only [List.length_cons]; omega)]
        have : x - a = (x - (a + 1)) + 1 := by omega
        rw [this, List.getElem?_cons_succ]
      · rw [if_neg (by omega), if_neg (by simp only [List.length_cons]; omega),
          read_write_other _ _ (by omega)]

theorem read_append (m n : Memory) (a : Nat) :
    Memory.read (m ++ n) a = (m.read a).or (n.read a) := by
  induction m with
  | nil => simp [Memory.read]
  | cons c m ih =>
    obtain ⟨k, v⟩ := c
    rw [List.cons_append, read_cons, read_cons, ih]
    split <;> simp

theorem read_filter (m : Memory) (p : Nat → Bool) (a : Nat) :
    Memory.read (m.filter (fun c => p c.1)) a = if p a then m.read a else none := by
  induction m with
  | nil => simp [Memory.read]
  | cons c m ih =>
    obtain ⟨k, v⟩ := c
    by_cases hk : p k
    · rw [List.filter_cons_of_pos (by simpa using hk), read_cons, read_cons, ih]
      by_cases h : k = a
      · subst h; simp [hk]
      · simp [h]
    · rw [List.filter_cons_of_neg (by simpa using hk), ih, read_cons]
      by_cases h : k = a
      · subst h; simp [hk]
      · simp [h]

theorem read_cellsFrom (b a : Nat) (l : List Byte) :
    Memory.read (cellsFrom b l) a = if b ≤ a then l[a - b]? else none := by
  induction l generalizing b with
  | nil => simp [cellsFrom]
  | cons c l ih =>
    rw [cellsFrom, read_cons, ih]
    rcases Nat.lt_trichotomy a b with h | h | h
    · rw [if_neg (by omega), if_neg (by omega), if_neg (by omega)]
    · subst h; simp
    · rw [if_neg (by omega), if_pos (by omega), if_pos (by omega)]
      have : a - b = (a - (b + 1)) + 1 := by omega
      rw [this, List.getElem?_cons_succ]

/-- What an offset reads as once a window's bytes are replaced. -/
theorem read_setWindow (m : Memory) (base size a : Nat) (l : List Byte) :
    (m.setWindow base size l).read a =
      if base ≤ a ∧ a < base + size then (l.take size)[a - base]? else m.read a := by
  simp only [Memory.setWindow, read_append, read_filter m (fun k => decide (k < base)),
    read_filter m (fun k => decide (base + size ≤ k)), read_cellsFrom, decide_eq_true_eq]
  by_cases h1 : a < base
  · rw [if_pos h1, if_neg (by omega), if_neg (by omega), if_neg (by omega)]; simp
  · by_cases h2 : a < base + size
    · rw [if_neg h1, if_pos (by omega), if_neg (by omega), if_pos (by omega)]; simp
    · rw [if_neg h1, if_pos (by omega), if_pos (by omega), if_neg (by omega)]
      rw [List.getElem?_eq_none (by simp only [List.length_take]; omega)]; simp

theorem read_setWindow_inside {m : Memory} {base size a : Nat} {l : List Byte} (h1 : base ≤ a)
    (h2 : a < base + size) : (m.setWindow base size l).read a = (l.take size)[a - base]? := by
  rw [read_setWindow, if_pos ⟨h1, h2⟩]

theorem read_setWindow_outside {m : Memory} {base size a : Nat} {l : List Byte}
    (h : a < base ∨ base + size ≤ a) : (m.setWindow base size l).read a = m.read a := by
  rw [read_setWindow, if_neg (by omega)]

/-! ### The canonical form -/

theorem wf_nil : Memory.wf [] := List.Pairwise.nil

theorem mem_write {m : Memory} {a : Nat} {b : Byte} {x : Host.Cell} (h : x ∈ m.write a b) :
    x = (a, b) ∨ x ∈ m := by
  induction m with
  | nil => simpa [Memory.write] using h
  | cons c m ih =>
    obtain ⟨k, v⟩ := c
    simp only [Memory.write] at h
    split at h
    · simpa using h
    · split at h
      · rcases List.mem_cons.mp h with h | h
        · exact .inl h
        · exact .inr (List.mem_cons_of_mem _ h)
      · rcases List.mem_cons.mp h with h | h
        · exact .inr (by simp [h])
        · rcases ih h with h | h
          · exact .inl h
          · exact .inr (List.mem_cons_of_mem _ h)

theorem write_wf {m : Memory} (h : m.wf) (a : Nat) (b : Byte) : (m.write a b).wf := by
  induction m with
  | nil => simp [Memory.write, Memory.wf]
  | cons c m ih =>
    obtain ⟨k, v⟩ := c
    have hc := List.pairwise_cons.mp h
    simp only [Memory.write]
    split
    · rename_i hlt
      refine List.pairwise_cons.mpr ⟨fun x hx => ?_, h⟩
      rcases List.mem_cons.mp hx with hx | hx
      · subst hx; exact hlt
      · exact Nat.lt_trans hlt (hc.1 x hx)
    · split
      · rename_i heq
        subst heq
        exact List.pairwise_cons.mpr ⟨hc.1, hc.2⟩
      · refine List.pairwise_cons.mpr ⟨fun x hx => ?_, ih hc.2⟩
        rcases mem_write hx with hx | hx
        · subst hx
          show k < a
          omega
        · exact hc.1 x hx

theorem writeAll_wf {m : Memory} (h : m.wf) (a : Nat) (l : List Byte) : (m.writeAll a l).wf := by
  induction l generalizing m a with
  | nil => exact h
  | cons b l ih => exact ih (write_wf h a b) (a + 1)

theorem mem_cellsFrom {b : Nat} {l : List Byte} {x : Host.Cell} (h : x ∈ cellsFrom b l) :
    b ≤ x.1 ∧ x.1 < b + l.length := by
  induction l generalizing b with
  | nil => simp [cellsFrom] at h
  | cons c l ih =>
    simp only [cellsFrom, List.mem_cons] at h
    rcases h with h | h
    · subst h; simp
    · have := ih h
      simp only [List.length_cons]; omega

theorem cellsFrom_wf (b : Nat) (l : List Byte) : Memory.wf (cellsFrom b l) := by
  induction l generalizing b with
  | nil => exact List.Pairwise.nil
  | cons c l ih =>
    refine List.pairwise_cons.mpr ⟨fun x hx => ?_, ih (b + 1)⟩
    have := mem_cellsFrom hx
    show b < x.1
    omega

theorem mem_setWindow {m : Memory} {base size : Nat} {l : List Byte} {x : Host.Cell}
    (h : x ∈ m.setWindow base size l) :
    (base ≤ x.1 ∧ x.1 < base + size) ∨ (x ∈ m ∧ (x.1 < base ∨ base + size ≤ x.1)) := by
  simp only [Memory.setWindow, List.mem_append, List.mem_filter, decide_eq_true_eq] at h
  rcases h with (h | h) | h
  · exact .inr ⟨h.1, .inl h.2⟩
  · have := mem_cellsFrom h
    have := List.length_take_le size l
    exact .inl (by omega)
  · exact .inr ⟨h.1, .inr h.2⟩

theorem setWindow_wf {m : Memory} (h : m.wf) (base size : Nat) (l : List Byte) :
    (m.setWindow base size l).wf := by
  have hl := List.length_take_le size l
  refine List.pairwise_append.mpr ⟨List.pairwise_append.mpr ⟨h.filter _, cellsFrom_wf _ _, ?_⟩,
    h.filter _, ?_⟩
  · intro x hx y hy
    have h1 := mem_cellsFrom hy
    simp only [List.mem_filter, decide_eq_true_eq] at hx
    omega
  · intro x hx y hy
    simp only [List.mem_filter, decide_eq_true_eq] at hy
    rcases List.mem_append.mp hx with hx | hx
    · simp only [List.mem_filter, decide_eq_true_eq] at hx
      omega
    · have h1 := mem_cellsFrom hx
      omega

theorem reset_wf : Memory.wf State.reset.mem := List.Pairwise.nil

end Sys2Proof.Machine.Memory
end

