-- ==== Sys2Proof/Laws/State.lean ====
section
/-! SUPPORT. One lemma per update of State and field: what the field holds after the update, true by `rfl`,
so that no proof unfolds a record update. -/

namespace Sys2Proof.Machine

section
variable (s : State)

/-! ### accept -/

@[simp] theorem accept_irqEn (w : Word) : (s.accept w).irqEn = s.irqEn := rfl
@[simp] theorem accept_busy (w : Word) : (s.accept w).busy = true := rfl
@[simp] theorem accept_done (w : Word) : (s.accept w).done = false := rfl
@[simp] theorem accept_err (w : Word) : (s.accept w).err = false := rfl
@[simp] theorem accept_ovr (w : Word) : (s.accept w).ovr = s.ovr := rfl
@[simp] theorem accept_errCode (w : Word) : (s.accept w).errCode = 0 := rfl
@[simp] theorem accept_errOpcode (w : Word) : (s.accept w).errOpcode = 0 := rfl
@[simp] theorem accept_latch (w : Word) : (s.accept w).latch = w := rfl
@[simp] theorem accept_arg0 (w : Word) : (s.accept w).arg0 = s.arg0 := rfl
@[simp] theorem accept_arg1 (w : Word) : (s.accept w).arg1 = s.arg1 := rfl
@[simp] theorem accept_res0 (w : Word) : (s.accept w).res0 = s.res0 := rfl
@[simp] theorem accept_res1 (w : Word) : (s.accept w).res1 = s.res1 := rfl
@[simp] theorem accept_paLen (w : Word) : (s.accept w).paLen = s.paLen := rfl
@[simp] theorem accept_pbLen (w : Word) : (s.accept w).pbLen = s.pbLen := rfl
@[simp] theorem accept_prLen (w : Word) : (s.accept w).prLen = s.prLen := rfl
@[simp] theorem accept_bbLen (w : Word) : (s.accept w).bbLen = s.bbLen := rfl
@[simp] theorem accept_cfg (w : Word) : (s.accept w).cfg = s.cfg := rfl
@[simp] theorem accept_qrState (w : Word) : (s.accept w).qrState = s.qrState := rfl
@[simp] theorem accept_qrVer (w : Word) : (s.accept w).qrVer = s.qrVer := rfl
@[simp] theorem accept_cwValid (w : Word) : (s.accept w).cwValid = s.cwValid := rfl
@[simp] theorem accept_cwTotal (w : Word) : (s.accept w).cwTotal = s.cwTotal := rfl
@[simp] theorem accept_cwData (w : Word) : (s.accept w).cwData = s.cwData := rfl
@[simp] theorem accept_qrSize (w : Word) : (s.accept w).qrSize = s.qrSize := rfl
@[simp] theorem accept_layoutMask (w : Word) : (s.accept w).layoutMask = s.layoutMask := rfl
@[simp] theorem accept_layoutTest (w : Word) : (s.accept w).layoutTest = s.layoutTest := rfl
@[simp] theorem accept_chosen (w : Word) : (s.accept w).chosen = s.chosen := rfl
@[simp] theorem accept_chosenValid (w : Word) : (s.accept w).chosenValid = s.chosenValid := rfl
@[simp] theorem accept_crc (w : Word) : (s.accept w).crc = s.crc := rfl
@[simp] theorem accept_segCount (w : Word) : (s.accept w).segCount = s.segCount := rfl
@[simp] theorem accept_segs (w : Word) : (s.accept w).segs = s.segs := rfl
@[simp] theorem accept_penalty (w : Word) : (s.accept w).penalty = s.penalty := rfl
@[simp] theorem accept_penR1 (w : Word) : (s.accept w).penR1 = s.penR1 := rfl
@[simp] theorem accept_penR2 (w : Word) : (s.accept w).penR2 = s.penR2 := rfl
@[simp] theorem accept_penR3 (w : Word) : (s.accept w).penR3 = s.penR3 := rfl
@[simp] theorem accept_penR4 (w : Word) : (s.accept w).penR4 = s.penR4 := rfl
@[simp] theorem accept_mscore (w : Word) : (s.accept w).mscore = s.mscore := rfl
@[simp] theorem accept_mem (w : Word) : (s.accept w).mem = s.mem := rfl
@[simp] theorem accept_matrix (w : Word) : (s.accept w).matrix = s.matrix := rfl
@[simp] theorem accept_prGen (w : Word) : (s.accept w).prGen = s.prGen := rfl
@[simp] theorem accept_bbGen (w : Word) : (s.accept w).bbGen = s.bbGen := rfl
@[simp] theorem accept_cwGen (w : Word) : (s.accept w).cwGen = s.cwGen := rfl
@[simp] theorem accept_draws (w : Word) : (s.accept w).draws = s.draws := rfl
@[simp] theorem accept_turns (w : Word) : (s.accept w).turns = s.turns := rfl
@[simp] theorem accept_resp (w : Word) : (s.accept w).resp = s.resp := rfl

/-! ### succeed -/

@[simp] theorem succeed_irqEn : s.succeed.irqEn = s.irqEn := rfl
@[simp] theorem succeed_busy : s.succeed.busy = false := rfl
@[simp] theorem succeed_done : s.succeed.done = true := rfl
@[simp] theorem succeed_err : s.succeed.err = false := rfl
@[simp] theorem succeed_ovr : s.succeed.ovr = s.ovr := rfl
@[simp] theorem succeed_errCode : s.succeed.errCode = 0 := rfl
@[simp] theorem succeed_errOpcode : s.succeed.errOpcode = 0 := rfl
@[simp] theorem succeed_latch : s.succeed.latch = s.latch := rfl
@[simp] theorem succeed_arg0 : s.succeed.arg0 = s.arg0 := rfl
@[simp] theorem succeed_arg1 : s.succeed.arg1 = s.arg1 := rfl
@[simp] theorem succeed_res0 : s.succeed.res0 = s.res0 := rfl
@[simp] theorem succeed_res1 : s.succeed.res1 = s.res1 := rfl
@[simp] theorem succeed_paLen : s.succeed.paLen = s.paLen := rfl
@[simp] theorem succeed_pbLen : s.succeed.pbLen = s.pbLen := rfl
@[simp] theorem succeed_prLen : s.succeed.prLen = s.prLen := rfl
@[simp] theorem succeed_bbLen : s.succeed.bbLen = s.bbLen := rfl
@[simp] theorem succeed_cfg : s.succeed.cfg = s.cfg := rfl
@[simp] theorem succeed_qrState : s.succeed.qrState = s.qrState := rfl
@[simp] theorem succeed_qrVer : s.succeed.qrVer = s.qrVer := rfl
@[simp] theorem succeed_cwValid : s.succeed.cwValid = s.cwValid := rfl
@[simp] theorem succeed_cwTotal : s.succeed.cwTotal = s.cwTotal := rfl
@[simp] theorem succeed_cwData : s.succeed.cwData = s.cwData := rfl
@[simp] theorem succeed_qrSize : s.succeed.qrSize = s.qrSize := rfl
@[simp] theorem succeed_layoutMask : s.succeed.layoutMask = s.layoutMask := rfl
@[simp] theorem succeed_layoutTest : s.succeed.layoutTest = s.layoutTest := rfl
@[simp] theorem succeed_chosen : s.succeed.chosen = s.chosen := rfl
@[simp] theorem succeed_chosenValid : s.succeed.chosenValid = s.chosenValid := rfl
@[simp] theorem succeed_crc : s.succeed.crc = s.crc := rfl
@[simp] theorem succeed_segCount : s.succeed.segCount = s.segCount := rfl
@[simp] theorem succeed_segs : s.succeed.segs = s.segs := rfl
@[simp] theorem succeed_penalty : s.succeed.penalty = s.penalty := rfl
@[simp] theorem succeed_penR1 : s.succeed.penR1 = s.penR1 := rfl
@[simp] theorem succeed_penR2 : s.succeed.penR2 = s.penR2 := rfl
@[simp] theorem succeed_penR3 : s.succeed.penR3 = s.penR3 := rfl
@[simp] theorem succeed_penR4 : s.succeed.penR4 = s.penR4 := rfl
@[simp] theorem succeed_mscore : s.succeed.mscore = s.mscore := rfl
@[simp] theorem succeed_mem : s.succeed.mem = s.mem := rfl
@[simp] theorem succeed_matrix : s.succeed.matrix = s.matrix := rfl
@[simp] theorem succeed_prGen : s.succeed.prGen = s.prGen := rfl
@[simp] theorem succeed_bbGen : s.succeed.bbGen = s.bbGen := rfl
@[simp] theorem succeed_cwGen : s.succeed.cwGen = s.cwGen := rfl
@[simp] theorem succeed_draws : s.succeed.draws = s.draws := rfl
@[simp] theorem succeed_turns : s.succeed.turns = s.turns := rfl
@[simp] theorem succeed_resp : s.succeed.resp = s.resp := rfl

/-! ### fail -/

@[simp] theorem fail_irqEn (c : ErrorCode) : (s.fail c).irqEn = s.irqEn := rfl
@[simp] theorem fail_busy (c : ErrorCode) : (s.fail c).busy = false := rfl
@[simp] theorem fail_done (c : ErrorCode) : (s.fail c).done = true := rfl
@[simp] theorem fail_err (c : ErrorCode) : (s.fail c).err = true := rfl
@[simp] theorem fail_ovr (c : ErrorCode) : (s.fail c).ovr = s.ovr := rfl
@[simp] theorem fail_errCode (c : ErrorCode) : (s.fail c).errCode = errorNumber c := rfl
@[simp] theorem fail_errOpcode (c : ErrorCode) : (s.fail c).errOpcode = opField s.latch := rfl
@[simp] theorem fail_latch (c : ErrorCode) : (s.fail c).latch = s.latch := rfl
@[simp] theorem fail_arg0 (c : ErrorCode) : (s.fail c).arg0 = s.arg0 := rfl
@[simp] theorem fail_arg1 (c : ErrorCode) : (s.fail c).arg1 = s.arg1 := rfl
@[simp] theorem fail_res0 (c : ErrorCode) : (s.fail c).res0 = s.res0 := rfl
@[simp] theorem fail_res1 (c : ErrorCode) : (s.fail c).res1 = s.res1 := rfl
@[simp] theorem fail_paLen (c : ErrorCode) : (s.fail c).paLen = s.paLen := rfl
@[simp] theorem fail_pbLen (c : ErrorCode) : (s.fail c).pbLen = s.pbLen := rfl
@[simp] theorem fail_prLen (c : ErrorCode) : (s.fail c).prLen = s.prLen := rfl
@[simp] theorem fail_bbLen (c : ErrorCode) : (s.fail c).bbLen = s.bbLen := rfl
@[simp] theorem fail_cfg (c : ErrorCode) : (s.fail c).cfg = s.cfg := rfl
@[simp] theorem fail_qrState (c : ErrorCode) : (s.fail c).qrState = s.qrState := rfl
@[simp] theorem fail_qrVer (c : ErrorCode) : (s.fail c).qrVer = s.qrVer := rfl
@[simp] theorem fail_cwValid (c : ErrorCode) : (s.fail c).cwValid = s.cwValid := rfl
@[simp] theorem fail_cwTotal (c : ErrorCode) : (s.fail c).cwTotal = s.cwTotal := rfl
@[simp] theorem fail_cwData (c : ErrorCode) : (s.fail c).cwData = s.cwData := rfl
@[simp] theorem fail_qrSize (c : ErrorCode) : (s.fail c).qrSize = s.qrSize := rfl
@[simp] theorem fail_layoutMask (c : ErrorCode) : (s.fail c).layoutMask = s.layoutMask := rfl
@[simp] theorem fail_layoutTest (c : ErrorCode) : (s.fail c).layoutTest = s.layoutTest := rfl
@[simp] theorem fail_chosen (c : ErrorCode) : (s.fail c).chosen = s.chosen := rfl
@[simp] theorem fail_chosenValid (c : ErrorCode) : (s.fail c).chosenValid = s.chosenValid := rfl
@[simp] theorem fail_crc (c : ErrorCode) : (s.fail c).crc = s.crc := rfl
@[simp] theorem fail_segCount (c : ErrorCode) : (s.fail c).segCount = s.segCount := rfl
@[simp] theorem fail_segs (c : ErrorCode) : (s.fail c).segs = s.segs := rfl
@[simp] theorem fail_penalty (c : ErrorCode) : (s.fail c).penalty = s.penalty := rfl
@[simp] theorem fail_penR1 (c : ErrorCode) : (s.fail c).penR1 = s.penR1 := rfl
@[simp] theorem fail_penR2 (c : ErrorCode) : (s.fail c).penR2 = s.penR2 := rfl
@[simp] theorem fail_penR3 (c : ErrorCode) : (s.fail c).penR3 = s.penR3 := rfl
@[simp] theorem fail_penR4 (c : ErrorCode) : (s.fail c).penR4 = s.penR4 := rfl
@[simp] theorem fail_mscore (c : ErrorCode) : (s.fail c).mscore = s.mscore := rfl
@[simp] theorem fail_mem (c : ErrorCode) : (s.fail c).mem = s.mem := rfl
@[simp] theorem fail_matrix (c : ErrorCode) : (s.fail c).matrix = s.matrix := rfl
@[simp] theorem fail_prGen (c : ErrorCode) : (s.fail c).prGen = s.prGen := rfl
@[simp] theorem fail_bbGen (c : ErrorCode) : (s.fail c).bbGen = s.bbGen := rfl
@[simp] theorem fail_cwGen (c : ErrorCode) : (s.fail c).cwGen = s.cwGen := rfl
@[simp] theorem fail_draws (c : ErrorCode) : (s.fail c).draws = s.draws := rfl
@[simp] theorem fail_turns (c : ErrorCode) : (s.fail c).turns = s.turns := rfl
@[simp] theorem fail_resp (c : ErrorCode) : (s.fail c).resp = s.resp := rfl

/-! ### setRes0 -/

@[simp] theorem setRes0_irqEn (v : Word) : (s.setRes0 v).irqEn = s.irqEn := rfl
@[simp] theorem setRes0_busy (v : Word) : (s.setRes0 v).busy = s.busy := rfl
@[simp] theorem setRes0_done (v : Word) : (s.setRes0 v).done = s.done := rfl
@[simp] theorem setRes0_err (v : Word) : (s.setRes0 v).err = s.err := rfl
@[simp] theorem setRes0_ovr (v : Word) : (s.setRes0 v).ovr = s.ovr := rfl
@[simp] theorem setRes0_errCode (v : Word) : (s.setRes0 v).errCode = s.errCode := rfl
@[simp] theorem setRes0_errOpcode (v : Word) : (s.setRes0 v).errOpcode = s.errOpcode := rfl
@[simp] theorem setRes0_latch (v : Word) : (s.setRes0 v).latch = s.latch := rfl
@[simp] theorem setRes0_arg0 (v : Word) : (s.setRes0 v).arg0 = s.arg0 := rfl
@[simp] theorem setRes0_arg1 (v : Word) : (s.setRes0 v).arg1 = s.arg1 := rfl
@[simp] theorem setRes0_res0 (v : Word) : (s.setRes0 v).res0 = v := rfl
@[simp] theorem setRes0_res1 (v : Word) : (s.setRes0 v).res1 = s.res1 := rfl
@[simp] theorem setRes0_paLen (v : Word) : (s.setRes0 v).paLen = s.paLen := rfl
@[simp] theorem setRes0_pbLen (v : Word) : (s.setRes0 v).pbLen = s.pbLen := rfl
@[simp] theorem setRes0_prLen (v : Word) : (s.setRes0 v).prLen = s.prLen := rfl
@[simp] theorem setRes0_bbLen (v : Word) : (s.setRes0 v).bbLen = s.bbLen := rfl
@[simp] theorem setRes0_cfg (v : Word) : (s.setRes0 v).cfg = s.cfg := rfl
@[simp] theorem setRes0_qrState (v : Word) : (s.setRes0 v).qrState = s.qrState := rfl
@[simp] theorem setRes0_qrVer (v : Word) : (s.setRes0 v).qrVer = s.qrVer := rfl
@[simp] theorem setRes0_cwValid (v : Word) : (s.setRes0 v).cwValid = s.cwValid := rfl
@[simp] theorem setRes0_cwTotal (v : Word) : (s.setRes0 v).cwTotal = s.cwTotal := rfl
@[simp] theorem setRes0_cwData (v : Word) : (s.setRes0 v).cwData = s.cwData := rfl
@[simp] theorem setRes0_qrSize (v : Word) : (s.setRes0 v).qrSize = s.qrSize := rfl
@[simp] theorem setRes0_layoutMask (v : Word) : (s.setRes0 v).layoutMask = s.layoutMask := rfl
@[simp] theorem setRes0_layoutTest (v : Word) : (s.setRes0 v).layoutTest = s.layoutTest := rfl
@[simp] theorem setRes0_chosen (v : Word) : (s.setRes0 v).chosen = s.chosen := rfl
@[simp] theorem setRes0_chosenValid (v : Word) : (s.setRes0 v).chosenValid = s.chosenValid := rfl
@[simp] theorem setRes0_crc (v : Word) : (s.setRes0 v).crc = s.crc := rfl
@[simp] theorem setRes0_segCount (v : Word) : (s.setRes0 v).segCount = s.segCount := rfl
@[simp] theorem setRes0_segs (v : Word) : (s.setRes0 v).segs = s.segs := rfl
@[simp] theorem setRes0_penalty (v : Word) : (s.setRes0 v).penalty = s.penalty := rfl
@[simp] theorem setRes0_penR1 (v : Word) : (s.setRes0 v).penR1 = s.penR1 := rfl
@[simp] theorem setRes0_penR2 (v : Word) : (s.setRes0 v).penR2 = s.penR2 := rfl
@[simp] theorem setRes0_penR3 (v : Word) : (s.setRes0 v).penR3 = s.penR3 := rfl
@[simp] theorem setRes0_penR4 (v : Word) : (s.setRes0 v).penR4 = s.penR4 := rfl
@[simp] theorem setRes0_mscore (v : Word) : (s.setRes0 v).mscore = s.mscore := rfl
@[simp] theorem setRes0_mem (v : Word) : (s.setRes0 v).mem = s.mem := rfl
@[simp] theorem setRes0_matrix (v : Word) : (s.setRes0 v).matrix = s.matrix := rfl
@[simp] theorem setRes0_prGen (v : Word) : (s.setRes0 v).prGen = s.prGen := rfl
@[simp] theorem setRes0_bbGen (v : Word) : (s.setRes0 v).bbGen = s.bbGen := rfl
@[simp] theorem setRes0_cwGen (v : Word) : (s.setRes0 v).cwGen = s.cwGen := rfl
@[simp] theorem setRes0_draws (v : Word) : (s.setRes0 v).draws = s.draws := rfl
@[simp] theorem setRes0_turns (v : Word) : (s.setRes0 v).turns = s.turns := rfl
@[simp] theorem setRes0_resp (v : Word) : (s.setRes0 v).resp = s.resp := rfl

/-! ### setRes -/

@[simp] theorem setRes_irqEn (v w : Word) : (s.setRes v w).irqEn = s.irqEn := rfl
@[simp] theorem setRes_busy (v w : Word) : (s.setRes v w).busy = s.busy := rfl
@[simp] theorem setRes_done (v w : Word) : (s.setRes v w).done = s.done := rfl
@[simp] theorem setRes_err (v w : Word) : (s.setRes v w).err = s.err := rfl
@[simp] theorem setRes_ovr (v w : Word) : (s.setRes v w).ovr = s.ovr := rfl
@[simp] theorem setRes_errCode (v w : Word) : (s.setRes v w).errCode = s.errCode := rfl
@[simp] theorem setRes_errOpcode (v w : Word) : (s.setRes v w).errOpcode = s.errOpcode := rfl
@[simp] theorem setRes_latch (v w : Word) : (s.setRes v w).latch = s.latch := rfl
@[simp] theorem setRes_arg0 (v w : Word) : (s.setRes v w).arg0 = s.arg0 := rfl
@[simp] theorem setRes_arg1 (v w : Word) : (s.setRes v w).arg1 = s.arg1 := rfl
@[simp] theorem setRes_res0 (v w : Word) : (s.setRes v w).res0 = v := rfl
@[simp] theorem setRes_res1 (v w : Word) : (s.setRes v w).res1 = w := rfl
@[simp] theorem setRes_paLen (v w : Word) : (s.setRes v w).paLen = s.paLen := rfl
@[simp] theorem setRes_pbLen (v w : Word) : (s.setRes v w).pbLen = s.pbLen := rfl
@[simp] theorem setRes_prLen (v w : Word) : (s.setRes v w).prLen = s.prLen := rfl
@[simp] theorem setRes_bbLen (v w : Word) : (s.setRes v w).bbLen = s.bbLen := rfl
@[simp] theorem setRes_cfg (v w : Word) : (s.setRes v w).cfg = s.cfg := rfl
@[simp] theorem setRes_qrState (v w : Word) : (s.setRes v w).qrState = s.qrState := rfl
@[simp] theorem setRes_qrVer (v w : Word) : (s.setRes v w).qrVer = s.qrVer := rfl
@[simp] theorem setRes_cwValid (v w : Word) : (s.setRes v w).cwValid = s.cwValid := rfl
@[simp] theorem setRes_cwTotal (v w : Word) : (s.setRes v w).cwTotal = s.cwTotal := rfl
@[simp] theorem setRes_cwData (v w : Word) : (s.setRes v w).cwData = s.cwData := rfl
@[simp] theorem setRes_qrSize (v w : Word) : (s.setRes v w).qrSize = s.qrSize := rfl
@[simp] theorem setRes_layoutMask (v w : Word) : (s.setRes v w).layoutMask = s.layoutMask := rfl
@[simp] theorem setRes_layoutTest (v w : Word) : (s.setRes v w).layoutTest = s.layoutTest := rfl
@[simp] theorem setRes_chosen (v w : Word) : (s.setRes v w).chosen = s.chosen := rfl
@[simp] theorem setRes_chosenValid (v w : Word) : (s.setRes v w).chosenValid = s.chosenValid := rfl
@[simp] theorem setRes_crc (v w : Word) : (s.setRes v w).crc = s.crc := rfl
@[simp] theorem setRes_segCount (v w : Word) : (s.setRes v w).segCount = s.segCount := rfl
@[simp] theorem setRes_segs (v w : Word) : (s.setRes v w).segs = s.segs := rfl
@[simp] theorem setRes_penalty (v w : Word) : (s.setRes v w).penalty = s.penalty := rfl
@[simp] theorem setRes_penR1 (v w : Word) : (s.setRes v w).penR1 = s.penR1 := rfl
@[simp] theorem setRes_penR2 (v w : Word) : (s.setRes v w).penR2 = s.penR2 := rfl
@[simp] theorem setRes_penR3 (v w : Word) : (s.setRes v w).penR3 = s.penR3 := rfl
@[simp] theorem setRes_penR4 (v w : Word) : (s.setRes v w).penR4 = s.penR4 := rfl
@[simp] theorem setRes_mscore (v w : Word) : (s.setRes v w).mscore = s.mscore := rfl
@[simp] theorem setRes_mem (v w : Word) : (s.setRes v w).mem = s.mem := rfl
@[simp] theorem setRes_matrix (v w : Word) : (s.setRes v w).matrix = s.matrix := rfl
@[simp] theorem setRes_prGen (v w : Word) : (s.setRes v w).prGen = s.prGen := rfl
@[simp] theorem setRes_bbGen (v w : Word) : (s.setRes v w).bbGen = s.bbGen := rfl
@[simp] theorem setRes_cwGen (v w : Word) : (s.setRes v w).cwGen = s.cwGen := rfl
@[simp] theorem setRes_draws (v w : Word) : (s.setRes v w).draws = s.draws := rfl
@[simp] theorem setRes_turns (v w : Word) : (s.setRes v w).turns = s.turns := rfl
@[simp] theorem setRes_resp (v w : Word) : (s.setRes v w).resp = s.resp := rfl

/-! ### setCrc -/

@[simp] theorem setCrc_irqEn (c : BitVec 16) : (s.setCrc c).irqEn = s.irqEn := rfl
@[simp] theorem setCrc_busy (c : BitVec 16) : (s.setCrc c).busy = s.busy := rfl
@[simp] theorem setCrc_done (c : BitVec 16) : (s.setCrc c).done = s.done := rfl
@[simp] theorem setCrc_err (c : BitVec 16) : (s.setCrc c).err = s.err := rfl
@[simp] theorem setCrc_ovr (c : BitVec 16) : (s.setCrc c).ovr = s.ovr := rfl
@[simp] theorem setCrc_errCode (c : BitVec 16) : (s.setCrc c).errCode = s.errCode := rfl
@[simp] theorem setCrc_errOpcode (c : BitVec 16) : (s.setCrc c).errOpcode = s.errOpcode := rfl
@[simp] theorem setCrc_latch (c : BitVec 16) : (s.setCrc c).latch = s.latch := rfl
@[simp] theorem setCrc_arg0 (c : BitVec 16) : (s.setCrc c).arg0 = s.arg0 := rfl
@[simp] theorem setCrc_arg1 (c : BitVec 16) : (s.setCrc c).arg1 = s.arg1 := rfl
@[simp] theorem setCrc_res0 (c : BitVec 16) : (s.setCrc c).res0 = s.res0 := rfl
@[simp] theorem setCrc_res1 (c : BitVec 16) : (s.setCrc c).res1 = s.res1 := rfl
@[simp] theorem setCrc_paLen (c : BitVec 16) : (s.setCrc c).paLen = s.paLen := rfl
@[simp] theorem setCrc_pbLen (c : BitVec 16) : (s.setCrc c).pbLen = s.pbLen := rfl
@[simp] theorem setCrc_prLen (c : BitVec 16) : (s.setCrc c).prLen = s.prLen := rfl
@[simp] theorem setCrc_bbLen (c : BitVec 16) : (s.setCrc c).bbLen = s.bbLen := rfl
@[simp] theorem setCrc_cfg (c : BitVec 16) : (s.setCrc c).cfg = s.cfg := rfl
@[simp] theorem setCrc_qrState (c : BitVec 16) : (s.setCrc c).qrState = s.qrState := rfl
@[simp] theorem setCrc_qrVer (c : BitVec 16) : (s.setCrc c).qrVer = s.qrVer := rfl
@[simp] theorem setCrc_cwValid (c : BitVec 16) : (s.setCrc c).cwValid = s.cwValid := rfl
@[simp] theorem setCrc_cwTotal (c : BitVec 16) : (s.setCrc c).cwTotal = s.cwTotal := rfl
@[simp] theorem setCrc_cwData (c : BitVec 16) : (s.setCrc c).cwData = s.cwData := rfl
@[simp] theorem setCrc_qrSize (c : BitVec 16) : (s.setCrc c).qrSize = s.qrSize := rfl
@[simp] theorem setCrc_layoutMask (c : BitVec 16) : (s.setCrc c).layoutMask = s.layoutMask := rfl
@[simp] theorem setCrc_layoutTest (c : BitVec 16) : (s.setCrc c).layoutTest = s.layoutTest := rfl
@[simp] theorem setCrc_chosen (c : BitVec 16) : (s.setCrc c).chosen = s.chosen := rfl
@[simp] theorem setCrc_chosenValid (c : BitVec 16) : (s.setCrc c).chosenValid = s.chosenValid := rfl
@[simp] theorem setCrc_crc (c : BitVec 16) : (s.setCrc c).crc = c := rfl
@[simp] theorem setCrc_segCount (c : BitVec 16) : (s.setCrc c).segCount = s.segCount := rfl
@[simp] theorem setCrc_segs (c : BitVec 16) : (s.setCrc c).segs = s.segs := rfl
@[simp] theorem setCrc_penalty (c : BitVec 16) : (s.setCrc c).penalty = s.penalty := rfl
@[simp] theorem setCrc_penR1 (c : BitVec 16) : (s.setCrc c).penR1 = s.penR1 := rfl
@[simp] theorem setCrc_penR2 (c : BitVec 16) : (s.setCrc c).penR2 = s.penR2 := rfl
@[simp] theorem setCrc_penR3 (c : BitVec 16) : (s.setCrc c).penR3 = s.penR3 := rfl
@[simp] theorem setCrc_penR4 (c : BitVec 16) : (s.setCrc c).penR4 = s.penR4 := rfl
@[simp] theorem setCrc_mscore (c : BitVec 16) : (s.setCrc c).mscore = s.mscore := rfl
@[simp] theorem setCrc_mem (c : BitVec 16) : (s.setCrc c).mem = s.mem := rfl
@[simp] theorem setCrc_matrix (c : BitVec 16) : (s.setCrc c).matrix = s.matrix := rfl
@[simp] theorem setCrc_prGen (c : BitVec 16) : (s.setCrc c).prGen = s.prGen := rfl
@[simp] theorem setCrc_bbGen (c : BitVec 16) : (s.setCrc c).bbGen = s.bbGen := rfl
@[simp] theorem setCrc_cwGen (c : BitVec 16) : (s.setCrc c).cwGen = s.cwGen := rfl
@[simp] theorem setCrc_draws (c : BitVec 16) : (s.setCrc c).draws = s.draws := rfl
@[simp] theorem setCrc_turns (c : BitVec 16) : (s.setCrc c).turns = s.turns := rfl
@[simp] theorem setCrc_resp (c : BitVec 16) : (s.setCrc c).resp = s.resp := rfl

/-! ### storePr -/

@[simp] theorem storePr_irqEn (p : List Byte) : (s.storePr p).irqEn = s.irqEn := rfl
@[simp] theorem storePr_busy (p : List Byte) : (s.storePr p).busy = s.busy := rfl
@[simp] theorem storePr_done (p : List Byte) : (s.storePr p).done = s.done := rfl
@[simp] theorem storePr_err (p : List Byte) : (s.storePr p).err = s.err := rfl
@[simp] theorem storePr_ovr (p : List Byte) : (s.storePr p).ovr = s.ovr := rfl
@[simp] theorem storePr_errCode (p : List Byte) : (s.storePr p).errCode = s.errCode := rfl
@[simp] theorem storePr_errOpcode (p : List Byte) : (s.storePr p).errOpcode = s.errOpcode := rfl
@[simp] theorem storePr_latch (p : List Byte) : (s.storePr p).latch = s.latch := rfl
@[simp] theorem storePr_arg0 (p : List Byte) : (s.storePr p).arg0 = s.arg0 := rfl
@[simp] theorem storePr_arg1 (p : List Byte) : (s.storePr p).arg1 = s.arg1 := rfl
@[simp] theorem storePr_res0 (p : List Byte) : (s.storePr p).res0 = s.res0 := rfl
@[simp] theorem storePr_res1 (p : List Byte) : (s.storePr p).res1 = s.res1 := rfl
@[simp] theorem storePr_paLen (p : List Byte) : (s.storePr p).paLen = s.paLen := rfl
@[simp] theorem storePr_pbLen (p : List Byte) : (s.storePr p).pbLen = s.pbLen := rfl
@[simp] theorem storePr_prLen (p : List Byte) : (s.storePr p).prLen = BitVec.ofNat 9 p.length := rfl
@[simp] theorem storePr_bbLen (p : List Byte) : (s.storePr p).bbLen = s.bbLen := rfl
@[simp] theorem storePr_cfg (p : List Byte) : (s.storePr p).cfg = s.cfg := rfl
@[simp] theorem storePr_qrState (p : List Byte) : (s.storePr p).qrState = s.qrState := rfl
@[simp] theorem storePr_qrVer (p : List Byte) : (s.storePr p).qrVer = s.qrVer := rfl
@[simp] theorem storePr_cwValid (p : List Byte) : (s.storePr p).cwValid = s.cwValid := rfl
@[simp] theorem storePr_cwTotal (p : List Byte) : (s.storePr p).cwTotal = s.cwTotal := rfl
@[simp] theorem storePr_cwData (p : List Byte) : (s.storePr p).cwData = s.cwData := rfl
@[simp] theorem storePr_qrSize (p : List Byte) : (s.storePr p).qrSize = s.qrSize := rfl
@[simp] theorem storePr_layoutMask (p : List Byte) : (s.storePr p).layoutMask = s.layoutMask := rfl
@[simp] theorem storePr_layoutTest (p : List Byte) : (s.storePr p).layoutTest = s.layoutTest := rfl
@[simp] theorem storePr_chosen (p : List Byte) : (s.storePr p).chosen = s.chosen := rfl
@[simp] theorem storePr_chosenValid (p : List Byte) : (s.storePr p).chosenValid = s.chosenValid := rfl
@[simp] theorem storePr_crc (p : List Byte) : (s.storePr p).crc = s.crc := rfl
@[simp] theorem storePr_segCount (p : List Byte) : (s.storePr p).segCount = s.segCount := rfl
@[simp] theorem storePr_segs (p : List Byte) : (s.storePr p).segs = s.segs := rfl
@[simp] theorem storePr_penalty (p : List Byte) : (s.storePr p).penalty = s.penalty := rfl
@[simp] theorem storePr_penR1 (p : List Byte) : (s.storePr p).penR1 = s.penR1 := rfl
@[simp] theorem storePr_penR2 (p : List Byte) : (s.storePr p).penR2 = s.penR2 := rfl
@[simp] theorem storePr_penR3 (p : List Byte) : (s.storePr p).penR3 = s.penR3 := rfl
@[simp] theorem storePr_penR4 (p : List Byte) : (s.storePr p).penR4 = s.penR4 := rfl
@[simp] theorem storePr_mscore (p : List Byte) : (s.storePr p).mscore = s.mscore := rfl
@[simp] theorem storePr_mem (p : List Byte) : (s.storePr p).mem = s.mem.setWindow (Window.base .pr) (Window.size .pr) p := rfl
@[simp] theorem storePr_matrix (p : List Byte) : (s.storePr p).matrix = s.matrix := rfl
@[simp] theorem storePr_prGen (p : List Byte) : (s.storePr p).prGen = s.prGen + 1 := rfl
@[simp] theorem storePr_bbGen (p : List Byte) : (s.storePr p).bbGen = s.bbGen := rfl
@[simp] theorem storePr_cwGen (p : List Byte) : (s.storePr p).cwGen = s.cwGen := rfl
@[simp] theorem storePr_draws (p : List Byte) : (s.storePr p).draws = s.draws := rfl
@[simp] theorem storePr_turns (p : List Byte) : (s.storePr p).turns = s.turns := rfl
@[simp] theorem storePr_resp (p : List Byte) : (s.storePr p).resp = s.resp := rfl

/-! ### storeBit -/

@[simp] theorem storeBit_irqEn (k : Nat) (b : Byte) (n : Nat) : (s.storeBit k b n).irqEn = s.irqEn := rfl
@[simp] theorem storeBit_busy (k : Nat) (b : Byte) (n : Nat) : (s.storeBit k b n).busy = s.busy := rfl
@[simp] theorem storeBit_done (k : Nat) (b : Byte) (n : Nat) : (s.storeBit k b n).done = s.done := rfl
@[simp] theorem storeBit_err (k : Nat) (b : Byte) (n : Nat) : (s.storeBit k b n).err = s.err := rfl
@[simp] theorem storeBit_ovr (k : Nat) (b : Byte) (n : Nat) : (s.storeBit k b n).ovr = s.ovr := rfl
@[simp] theorem storeBit_errCode (k : Nat) (b : Byte) (n : Nat) : (s.storeBit k b n).errCode = s.errCode := rfl
@[simp] theorem storeBit_errOpcode (k : Nat) (b : Byte) (n : Nat) : (s.storeBit k b n).errOpcode = s.errOpcode := rfl
@[simp] theorem storeBit_latch (k : Nat) (b : Byte) (n : Nat) : (s.storeBit k b n).latch = s.latch := rfl
@[simp] theorem storeBit_arg0 (k : Nat) (b : Byte) (n : Nat) : (s.storeBit k b n).arg0 = s.arg0 := rfl
@[simp] theorem storeBit_arg1 (k : Nat) (b : Byte) (n : Nat) : (s.storeBit k b n).arg1 = s.arg1 := rfl
@[simp] theorem storeBit_res0 (k : Nat) (b : Byte) (n : Nat) : (s.storeBit k b n).res0 = s.res0 := rfl
@[simp] theorem storeBit_res1 (k : Nat) (b : Byte) (n : Nat) : (s.storeBit k b n).res1 = s.res1 := rfl
@[simp] theorem storeBit_paLen (k : Nat) (b : Byte) (n : Nat) : (s.storeBit k b n).paLen = s.paLen := rfl
@[simp] theorem storeBit_pbLen (k : Nat) (b : Byte) (n : Nat) : (s.storeBit k b n).pbLen = s.pbLen := rfl
@[simp] theorem storeBit_prLen (k : Nat) (b : Byte) (n : Nat) : (s.storeBit k b n).prLen = s.prLen := rfl
@[simp] theorem storeBit_bbLen (k : Nat) (b : Byte) (n : Nat) : (s.storeBit k b n).bbLen = BitVec.ofNat 16 n := rfl
@[simp] theorem storeBit_cfg (k : Nat) (b : Byte) (n : Nat) : (s.storeBit k b n).cfg = s.cfg := rfl
@[simp] theorem storeBit_qrState (k : Nat) (b : Byte) (n : Nat) : (s.storeBit k b n).qrState = s.qrState := rfl
@[simp] theorem storeBit_qrVer (k : Nat) (b : Byte) (n : Nat) : (s.storeBit k b n).qrVer = s.qrVer := rfl
@[simp] theorem storeBit_cwValid (k : Nat) (b : Byte) (n : Nat) : (s.storeBit k b n).cwValid = s.cwValid := rfl
@[simp] theorem storeBit_cwTotal (k : Nat) (b : Byte) (n : Nat) : (s.storeBit k b n).cwTotal = s.cwTotal := rfl
@[simp] theorem storeBit_cwData (k : Nat) (b : Byte) (n : Nat) : (s.storeBit k b n).cwData = s.cwData := rfl
@[simp] theorem storeBit_qrSize (k : Nat) (b : Byte) (n : Nat) : (s.storeBit k b n).qrSize = s.qrSize := rfl
@[simp] theorem storeBit_layoutMask (k : Nat) (b : Byte) (n : Nat) : (s.storeBit k b n).layoutMask = s.layoutMask := rfl
@[simp] theorem storeBit_layoutTest (k : Nat) (b : Byte) (n : Nat) : (s.storeBit k b n).layoutTest = s.layoutTest := rfl
@[simp] theorem storeBit_chosen (k : Nat) (b : Byte) (n : Nat) : (s.storeBit k b n).chosen = s.chosen := rfl
@[simp] theorem storeBit_chosenValid (k : Nat) (b : Byte) (n : Nat) : (s.storeBit k b n).chosenValid = s.chosenValid := rfl
@[simp] theorem storeBit_crc (k : Nat) (b : Byte) (n : Nat) : (s.storeBit k b n).crc = s.crc := rfl
@[simp] theorem storeBit_segCount (k : Nat) (b : Byte) (n : Nat) : (s.storeBit k b n).segCount = s.segCount := rfl
@[simp] theorem storeBit_segs (k : Nat) (b : Byte) (n : Nat) : (s.storeBit k b n).segs = s.segs := rfl
@[simp] theorem storeBit_penalty (k : Nat) (b : Byte) (n : Nat) : (s.storeBit k b n).penalty = s.penalty := rfl
@[simp] theorem storeBit_penR1 (k : Nat) (b : Byte) (n : Nat) : (s.storeBit k b n).penR1 = s.penR1 := rfl
@[simp] theorem storeBit_penR2 (k : Nat) (b : Byte) (n : Nat) : (s.storeBit k b n).penR2 = s.penR2 := rfl
@[simp] theorem storeBit_penR3 (k : Nat) (b : Byte) (n : Nat) : (s.storeBit k b n).penR3 = s.penR3 := rfl
@[simp] theorem storeBit_penR4 (k : Nat) (b : Byte) (n : Nat) : (s.storeBit k b n).penR4 = s.penR4 := rfl
@[simp] theorem storeBit_mscore (k : Nat) (b : Byte) (n : Nat) : (s.storeBit k b n).mscore = s.mscore := rfl
@[simp] theorem storeBit_mem (k : Nat) (b : Byte) (n : Nat) : (s.storeBit k b n).mem = s.mem.write (Window.base .bb + k) b := rfl
@[simp] theorem storeBit_matrix (k : Nat) (b : Byte) (n : Nat) : (s.storeBit k b n).matrix = s.matrix := rfl
@[simp] theorem storeBit_prGen (k : Nat) (b : Byte) (n : Nat) : (s.storeBit k b n).prGen = s.prGen := rfl
@[simp] theorem storeBit_bbGen (k : Nat) (b : Byte) (n : Nat) : (s.storeBit k b n).bbGen = s.bbGen := rfl
@[simp] theorem storeBit_cwGen (k : Nat) (b : Byte) (n : Nat) : (s.storeBit k b n).cwGen = s.cwGen := rfl
@[simp] theorem storeBit_draws (k : Nat) (b : Byte) (n : Nat) : (s.storeBit k b n).draws = s.draws := rfl
@[simp] theorem storeBit_turns (k : Nat) (b : Byte) (n : Nat) : (s.storeBit k b n).turns = s.turns := rfl
@[simp] theorem storeBit_resp (k : Nat) (b : Byte) (n : Nat) : (s.storeBit k b n).resp = s.resp := rfl

/-! ### clearBb -/

@[simp] theorem clearBb_irqEn : s.clearBb.irqEn = s.irqEn := rfl
@[simp] theorem clearBb_busy : s.clearBb.busy = s.busy := rfl
@[simp] theorem clearBb_done : s.clearBb.done = s.done := rfl
@[simp] theorem clearBb_err : s.clearBb.err = s.err := rfl
@[simp] theorem clearBb_ovr : s.clearBb.ovr = s.ovr := rfl
@[simp] theorem clearBb_errCode : s.clearBb.errCode = s.errCode := rfl
@[simp] theorem clearBb_errOpcode : s.clearBb.errOpcode = s.errOpcode := rfl
@[simp] theorem clearBb_latch : s.clearBb.latch = s.latch := rfl
@[simp] theorem clearBb_arg0 : s.clearBb.arg0 = s.arg0 := rfl
@[simp] theorem clearBb_arg1 : s.clearBb.arg1 = s.arg1 := rfl
@[simp] theorem clearBb_res0 : s.clearBb.res0 = s.res0 := rfl
@[simp] theorem clearBb_res1 : s.clearBb.res1 = s.res1 := rfl
@[simp] theorem clearBb_paLen : s.clearBb.paLen = s.paLen := rfl
@[simp] theorem clearBb_pbLen : s.clearBb.pbLen = s.pbLen := rfl
@[simp] theorem clearBb_prLen : s.clearBb.prLen = s.prLen := rfl
@[simp] theorem clearBb_bbLen : s.clearBb.bbLen = 0 := rfl
@[simp] theorem clearBb_cfg : s.clearBb.cfg = s.cfg := rfl
@[simp] theorem clearBb_qrState : s.clearBb.qrState = s.qrState := rfl
@[simp] theorem clearBb_qrVer : s.clearBb.qrVer = s.qrVer := rfl
@[simp] theorem clearBb_cwValid : s.clearBb.cwValid = s.cwValid := rfl
@[simp] theorem clearBb_cwTotal : s.clearBb.cwTotal = s.cwTotal := rfl
@[simp] theorem clearBb_cwData : s.clearBb.cwData = s.cwData := rfl
@[simp] theorem clearBb_qrSize : s.clearBb.qrSize = s.qrSize := rfl
@[simp] theorem clearBb_layoutMask : s.clearBb.layoutMask = s.layoutMask := rfl
@[simp] theorem clearBb_layoutTest : s.clearBb.layoutTest = s.layoutTest := rfl
@[simp] theorem clearBb_chosen : s.clearBb.chosen = s.chosen := rfl
@[simp] theorem clearBb_chosenValid : s.clearBb.chosenValid = s.chosenValid := rfl
@[simp] theorem clearBb_crc : s.clearBb.crc = s.crc := rfl
@[simp] theorem clearBb_segCount : s.clearBb.segCount = s.segCount := rfl
@[simp] theorem clearBb_segs : s.clearBb.segs = s.segs := rfl
@[simp] theorem clearBb_penalty : s.clearBb.penalty = s.penalty := rfl
@[simp] theorem clearBb_penR1 : s.clearBb.penR1 = s.penR1 := rfl
@[simp] theorem clearBb_penR2 : s.clearBb.penR2 = s.penR2 := rfl
@[simp] theorem clearBb_penR3 : s.clearBb.penR3 = s.penR3 := rfl
@[simp] theorem clearBb_penR4 : s.clearBb.penR4 = s.penR4 := rfl
@[simp] theorem clearBb_mscore : s.clearBb.mscore = s.mscore := rfl
@[simp] theorem clearBb_mem : s.clearBb.mem = s.mem.setWindow (Window.base .bb) (Window.size .bb) [] := rfl
@[simp] theorem clearBb_matrix : s.clearBb.matrix = s.matrix := rfl
@[simp] theorem clearBb_prGen : s.clearBb.prGen = s.prGen := rfl
@[simp] theorem clearBb_bbGen : s.clearBb.bbGen = s.bbGen + 1 := rfl
@[simp] theorem clearBb_cwGen : s.clearBb.cwGen = s.cwGen := rfl
@[simp] theorem clearBb_draws : s.clearBb.draws = s.draws := rfl
@[simp] theorem clearBb_turns : s.clearBb.turns = s.turns := rfl
@[simp] theorem clearBb_resp : s.clearBb.resp = s.resp := rfl

/-! ### setCfg -/

@[simp] theorem setCfg_irqEn (c : QrCfg) : (s.setCfg c).irqEn = s.irqEn := rfl
@[simp] theorem setCfg_busy (c : QrCfg) : (s.setCfg c).busy = s.busy := rfl
@[simp] theorem setCfg_done (c : QrCfg) : (s.setCfg c).done = s.done := rfl
@[simp] theorem setCfg_err (c : QrCfg) : (s.setCfg c).err = s.err := rfl
@[simp] theorem setCfg_ovr (c : QrCfg) : (s.setCfg c).ovr = s.ovr := rfl
@[simp] theorem setCfg_errCode (c : QrCfg) : (s.setCfg c).errCode = s.errCode := rfl
@[simp] theorem setCfg_errOpcode (c : QrCfg) : (s.setCfg c).errOpcode = s.errOpcode := rfl
@[simp] theorem setCfg_latch (c : QrCfg) : (s.setCfg c).latch = s.latch := rfl
@[simp] theorem setCfg_arg0 (c : QrCfg) : (s.setCfg c).arg0 = s.arg0 := rfl
@[simp] theorem setCfg_arg1 (c : QrCfg) : (s.setCfg c).arg1 = s.arg1 := rfl
@[simp] theorem setCfg_res0 (c : QrCfg) : (s.setCfg c).res0 = s.res0 := rfl
@[simp] theorem setCfg_res1 (c : QrCfg) : (s.setCfg c).res1 = s.res1 := rfl
@[simp] theorem setCfg_paLen (c : QrCfg) : (s.setCfg c).paLen = s.paLen := rfl
@[simp] theorem setCfg_pbLen (c : QrCfg) : (s.setCfg c).pbLen = s.pbLen := rfl
@[simp] theorem setCfg_prLen (c : QrCfg) : (s.setCfg c).prLen = s.prLen := rfl
@[simp] theorem setCfg_bbLen (c : QrCfg) : (s.setCfg c).bbLen = s.bbLen := rfl
@[simp] theorem setCfg_cfg (c : QrCfg) : (s.setCfg c).cfg = c := rfl
@[simp] theorem setCfg_qrState (c : QrCfg) : (s.setCfg c).qrState = s.qrState := rfl
@[simp] theorem setCfg_qrVer (c : QrCfg) : (s.setCfg c).qrVer = s.qrVer := rfl
@[simp] theorem setCfg_cwValid (c : QrCfg) : (s.setCfg c).cwValid = s.cwValid := rfl
@[simp] theorem setCfg_cwTotal (c : QrCfg) : (s.setCfg c).cwTotal = s.cwTotal := rfl
@[simp] theorem setCfg_cwData (c : QrCfg) : (s.setCfg c).cwData = s.cwData := rfl
@[simp] theorem setCfg_qrSize (c : QrCfg) : (s.setCfg c).qrSize = s.qrSize := rfl
@[simp] theorem setCfg_layoutMask (c : QrCfg) : (s.setCfg c).layoutMask = s.layoutMask := rfl
@[simp] theorem setCfg_layoutTest (c : QrCfg) : (s.setCfg c).layoutTest = s.layoutTest := rfl
@[simp] theorem setCfg_chosen (c : QrCfg) : (s.setCfg c).chosen = s.chosen := rfl
@[simp] theorem setCfg_chosenValid (c : QrCfg) : (s.setCfg c).chosenValid = s.chosenValid := rfl
@[simp] theorem setCfg_crc (c : QrCfg) : (s.setCfg c).crc = s.crc := rfl
@[simp] theorem setCfg_segCount (c : QrCfg) : (s.setCfg c).segCount = s.segCount := rfl
@[simp] theorem setCfg_segs (c : QrCfg) : (s.setCfg c).segs = s.segs := rfl
@[simp] theorem setCfg_penalty (c : QrCfg) : (s.setCfg c).penalty = s.penalty := rfl
@[simp] theorem setCfg_penR1 (c : QrCfg) : (s.setCfg c).penR1 = s.penR1 := rfl
@[simp] theorem setCfg_penR2 (c : QrCfg) : (s.setCfg c).penR2 = s.penR2 := rfl
@[simp] theorem setCfg_penR3 (c : QrCfg) : (s.setCfg c).penR3 = s.penR3 := rfl
@[simp] theorem setCfg_penR4 (c : QrCfg) : (s.setCfg c).penR4 = s.penR4 := rfl
@[simp] theorem setCfg_mscore (c : QrCfg) : (s.setCfg c).mscore = s.mscore := rfl
@[simp] theorem setCfg_mem (c : QrCfg) : (s.setCfg c).mem = s.mem := rfl
@[simp] theorem setCfg_matrix (c : QrCfg) : (s.setCfg c).matrix = s.matrix := rfl
@[simp] theorem setCfg_prGen (c : QrCfg) : (s.setCfg c).prGen = s.prGen := rfl
@[simp] theorem setCfg_bbGen (c : QrCfg) : (s.setCfg c).bbGen = s.bbGen := rfl
@[simp] theorem setCfg_cwGen (c : QrCfg) : (s.setCfg c).cwGen = s.cwGen := rfl
@[simp] theorem setCfg_draws (c : QrCfg) : (s.setCfg c).draws = s.draws := rfl
@[simp] theorem setCfg_turns (c : QrCfg) : (s.setCfg c).turns = s.turns := rfl
@[simp] theorem setCfg_resp (c : QrCfg) : (s.setCfg c).resp = s.resp := rfl

/-! ### setQrState -/

@[simp] theorem setQrState_irqEn (q : QrState) : (s.setQrState q).irqEn = s.irqEn := rfl
@[simp] theorem setQrState_busy (q : QrState) : (s.setQrState q).busy = s.busy := rfl
@[simp] theorem setQrState_done (q : QrState) : (s.setQrState q).done = s.done := rfl
@[simp] theorem setQrState_err (q : QrState) : (s.setQrState q).err = s.err := rfl
@[simp] theorem setQrState_ovr (q : QrState) : (s.setQrState q).ovr = s.ovr := rfl
@[simp] theorem setQrState_errCode (q : QrState) : (s.setQrState q).errCode = s.errCode := rfl
@[simp] theorem setQrState_errOpcode (q : QrState) : (s.setQrState q).errOpcode = s.errOpcode := rfl
@[simp] theorem setQrState_latch (q : QrState) : (s.setQrState q).latch = s.latch := rfl
@[simp] theorem setQrState_arg0 (q : QrState) : (s.setQrState q).arg0 = s.arg0 := rfl
@[simp] theorem setQrState_arg1 (q : QrState) : (s.setQrState q).arg1 = s.arg1 := rfl
@[simp] theorem setQrState_res0 (q : QrState) : (s.setQrState q).res0 = s.res0 := rfl
@[simp] theorem setQrState_res1 (q : QrState) : (s.setQrState q).res1 = s.res1 := rfl
@[simp] theorem setQrState_paLen (q : QrState) : (s.setQrState q).paLen = s.paLen := rfl
@[simp] theorem setQrState_pbLen (q : QrState) : (s.setQrState q).pbLen = s.pbLen := rfl
@[simp] theorem setQrState_prLen (q : QrState) : (s.setQrState q).prLen = s.prLen := rfl
@[simp] theorem setQrState_bbLen (q : QrState) : (s.setQrState q).bbLen = s.bbLen := rfl
@[simp] theorem setQrState_cfg (q : QrState) : (s.setQrState q).cfg = s.cfg := rfl
@[simp] theorem setQrState_qrState (q : QrState) : (s.setQrState q).qrState = q := rfl
@[simp] theorem setQrState_qrVer (q : QrState) : (s.setQrState q).qrVer = s.qrVer := rfl
@[simp] theorem setQrState_cwValid (q : QrState) : (s.setQrState q).cwValid = s.cwValid := rfl
@[simp] theorem setQrState_cwTotal (q : QrState) : (s.setQrState q).cwTotal = s.cwTotal := rfl
@[simp] theorem setQrState_cwData (q : QrState) : (s.setQrState q).cwData = s.cwData := rfl
@[simp] theorem setQrState_qrSize (q : QrState) : (s.setQrState q).qrSize = s.qrSize := rfl
@[simp] theorem setQrState_layoutMask (q : QrState) : (s.setQrState q).layoutMask = s.layoutMask := rfl
@[simp] theorem setQrState_layoutTest (q : QrState) : (s.setQrState q).layoutTest = s.layoutTest := rfl
@[simp] theorem setQrState_chosen (q : QrState) : (s.setQrState q).chosen = s.chosen := rfl
@[simp] theorem setQrState_chosenValid (q : QrState) : (s.setQrState q).chosenValid = s.chosenValid := rfl
@[simp] theorem setQrState_crc (q : QrState) : (s.setQrState q).crc = s.crc := rfl
@[simp] theorem setQrState_segCount (q : QrState) : (s.setQrState q).segCount = s.segCount := rfl
@[simp] theorem setQrState_segs (q : QrState) : (s.setQrState q).segs = s.segs := rfl
@[simp] theorem setQrState_penalty (q : QrState) : (s.setQrState q).penalty = s.penalty := rfl
@[simp] theorem setQrState_penR1 (q : QrState) : (s.setQrState q).penR1 = s.penR1 := rfl
@[simp] theorem setQrState_penR2 (q : QrState) : (s.setQrState q).penR2 = s.penR2 := rfl
@[simp] theorem setQrState_penR3 (q : QrState) : (s.setQrState q).penR3 = s.penR3 := rfl
@[simp] theorem setQrState_penR4 (q : QrState) : (s.setQrState q).penR4 = s.penR4 := rfl
@[simp] theorem setQrState_mscore (q : QrState) : (s.setQrState q).mscore = s.mscore := rfl
@[simp] theorem setQrState_mem (q : QrState) : (s.setQrState q).mem = s.mem := rfl
@[simp] theorem setQrState_matrix (q : QrState) : (s.setQrState q).matrix = s.matrix := rfl
@[simp] theorem setQrState_prGen (q : QrState) : (s.setQrState q).prGen = s.prGen := rfl
@[simp] theorem setQrState_bbGen (q : QrState) : (s.setQrState q).bbGen = s.bbGen := rfl
@[simp] theorem setQrState_cwGen (q : QrState) : (s.setQrState q).cwGen = s.cwGen := rfl
@[simp] theorem setQrState_draws (q : QrState) : (s.setQrState q).draws = s.draws := rfl
@[simp] theorem setQrState_turns (q : QrState) : (s.setQrState q).turns = s.turns := rfl
@[simp] theorem setQrState_resp (q : QrState) : (s.setQrState q).resp = s.resp := rfl

/-! ### setVersion -/

@[simp] theorem setVersion_irqEn (v : BitVec 6) : (s.setVersion v).irqEn = s.irqEn := rfl
@[simp] theorem setVersion_busy (v : BitVec 6) : (s.setVersion v).busy = s.busy := rfl
@[simp] theorem setVersion_done (v : BitVec 6) : (s.setVersion v).done = s.done := rfl
@[simp] theorem setVersion_err (v : BitVec 6) : (s.setVersion v).err = s.err := rfl
@[simp] theorem setVersion_ovr (v : BitVec 6) : (s.setVersion v).ovr = s.ovr := rfl
@[simp] theorem setVersion_errCode (v : BitVec 6) : (s.setVersion v).errCode = s.errCode := rfl
@[simp] theorem setVersion_errOpcode (v : BitVec 6) : (s.setVersion v).errOpcode = s.errOpcode := rfl
@[simp] theorem setVersion_latch (v : BitVec 6) : (s.setVersion v).latch = s.latch := rfl
@[simp] theorem setVersion_arg0 (v : BitVec 6) : (s.setVersion v).arg0 = s.arg0 := rfl
@[simp] theorem setVersion_arg1 (v : BitVec 6) : (s.setVersion v).arg1 = s.arg1 := rfl
@[simp] theorem setVersion_res0 (v : BitVec 6) : (s.setVersion v).res0 = s.res0 := rfl
@[simp] theorem setVersion_res1 (v : BitVec 6) : (s.setVersion v).res1 = s.res1 := rfl
@[simp] theorem setVersion_paLen (v : BitVec 6) : (s.setVersion v).paLen = s.paLen := rfl
@[simp] theorem setVersion_pbLen (v : BitVec 6) : (s.setVersion v).pbLen = s.pbLen := rfl
@[simp] theorem setVersion_prLen (v : BitVec 6) : (s.setVersion v).prLen = s.prLen := rfl
@[simp] theorem setVersion_bbLen (v : BitVec 6) : (s.setVersion v).bbLen = s.bbLen := rfl
@[simp] theorem setVersion_cfg (v : BitVec 6) : (s.setVersion v).cfg = s.cfg := rfl
@[simp] theorem setVersion_qrState (v : BitVec 6) : (s.setVersion v).qrState = s.qrState := rfl
@[simp] theorem setVersion_qrVer (v : BitVec 6) : (s.setVersion v).qrVer = v := rfl
@[simp] theorem setVersion_cwValid (v : BitVec 6) : (s.setVersion v).cwValid = s.cwValid := rfl
@[simp] theorem setVersion_cwTotal (v : BitVec 6) : (s.setVersion v).cwTotal = s.cwTotal := rfl
@[simp] theorem setVersion_cwData (v : BitVec 6) : (s.setVersion v).cwData = s.cwData := rfl
@[simp] theorem setVersion_qrSize (v : BitVec 6) : (s.setVersion v).qrSize = s.qrSize := rfl
@[simp] theorem setVersion_layoutMask (v : BitVec 6) : (s.setVersion v).layoutMask = s.layoutMask := rfl
@[simp] theorem setVersion_layoutTest (v : BitVec 6) : (s.setVersion v).layoutTest = s.layoutTest := rfl
@[simp] theorem setVersion_chosen (v : BitVec 6) : (s.setVersion v).chosen = s.chosen := rfl
@[simp] theorem setVersion_chosenValid (v : BitVec 6) : (s.setVersion v).chosenValid = s.chosenValid := rfl
@[simp] theorem setVersion_crc (v : BitVec 6) : (s.setVersion v).crc = s.crc := rfl
@[simp] theorem setVersion_segCount (v : BitVec 6) : (s.setVersion v).segCount = s.segCount := rfl
@[simp] theorem setVersion_segs (v : BitVec 6) : (s.setVersion v).segs = s.segs := rfl
@[simp] theorem setVersion_penalty (v : BitVec 6) : (s.setVersion v).penalty = s.penalty := rfl
@[simp] theorem setVersion_penR1 (v : BitVec 6) : (s.setVersion v).penR1 = s.penR1 := rfl
@[simp] theorem setVersion_penR2 (v : BitVec 6) : (s.setVersion v).penR2 = s.penR2 := rfl
@[simp] theorem setVersion_penR3 (v : BitVec 6) : (s.setVersion v).penR3 = s.penR3 := rfl
@[simp] theorem setVersion_penR4 (v : BitVec 6) : (s.setVersion v).penR4 = s.penR4 := rfl
@[simp] theorem setVersion_mscore (v : BitVec 6) : (s.setVersion v).mscore = s.mscore := rfl
@[simp] theorem setVersion_mem (v : BitVec 6) : (s.setVersion v).mem = s.mem := rfl
@[simp] theorem setVersion_matrix (v : BitVec 6) : (s.setVersion v).matrix = s.matrix := rfl
@[simp] theorem setVersion_prGen (v : BitVec 6) : (s.setVersion v).prGen = s.prGen := rfl
@[simp] theorem setVersion_bbGen (v : BitVec 6) : (s.setVersion v).bbGen = s.bbGen := rfl
@[simp] theorem setVersion_cwGen (v : BitVec 6) : (s.setVersion v).cwGen = s.cwGen := rfl
@[simp] theorem setVersion_draws (v : BitVec 6) : (s.setVersion v).draws = s.draws := rfl
@[simp] theorem setVersion_turns (v : BitVec 6) : (s.setVersion v).turns = s.turns := rfl
@[simp] theorem setVersion_resp (v : BitVec 6) : (s.setVersion v).resp = s.resp := rfl

/-! ### clearSegs -/

@[simp] theorem clearSegs_irqEn : s.clearSegs.irqEn = s.irqEn := rfl
@[simp] theorem clearSegs_busy : s.clearSegs.busy = s.busy := rfl
@[simp] theorem clearSegs_done : s.clearSegs.done = s.done := rfl
@[simp] theorem clearSegs_err : s.clearSegs.err = s.err := rfl
@[simp] theorem clearSegs_ovr : s.clearSegs.ovr = s.ovr := rfl
@[simp] theorem clearSegs_errCode : s.clearSegs.errCode = s.errCode := rfl
@[simp] theorem clearSegs_errOpcode : s.clearSegs.errOpcode = s.errOpcode := rfl
@[simp] theorem clearSegs_latch : s.clearSegs.latch = s.latch := rfl
@[simp] theorem clearSegs_arg0 : s.clearSegs.arg0 = s.arg0 := rfl
@[simp] theorem clearSegs_arg1 : s.clearSegs.arg1 = s.arg1 := rfl
@[simp] theorem clearSegs_res0 : s.clearSegs.res0 = s.res0 := rfl
@[simp] theorem clearSegs_res1 : s.clearSegs.res1 = s.res1 := rfl
@[simp] theorem clearSegs_paLen : s.clearSegs.paLen = s.paLen := rfl
@[simp] theorem clearSegs_pbLen : s.clearSegs.pbLen = s.pbLen := rfl
@[simp] theorem clearSegs_prLen : s.clearSegs.prLen = s.prLen := rfl
@[simp] theorem clearSegs_bbLen : s.clearSegs.bbLen = s.bbLen := rfl
@[simp] theorem clearSegs_cfg : s.clearSegs.cfg = s.cfg := rfl
@[simp] theorem clearSegs_qrState : s.clearSegs.qrState = s.qrState := rfl
@[simp] theorem clearSegs_qrVer : s.clearSegs.qrVer = s.qrVer := rfl
@[simp] theorem clearSegs_cwValid : s.clearSegs.cwValid = s.cwValid := rfl
@[simp] theorem clearSegs_cwTotal : s.clearSegs.cwTotal = s.cwTotal := rfl
@[simp] theorem clearSegs_cwData : s.clearSegs.cwData = s.cwData := rfl
@[simp] theorem clearSegs_qrSize : s.clearSegs.qrSize = s.qrSize := rfl
@[simp] theorem clearSegs_layoutMask : s.clearSegs.layoutMask = s.layoutMask := rfl
@[simp] theorem clearSegs_layoutTest : s.clearSegs.layoutTest = s.layoutTest := rfl
@[simp] theorem clearSegs_chosen : s.clearSegs.chosen = s.chosen := rfl
@[simp] theorem clearSegs_chosenValid : s.clearSegs.chosenValid = s.chosenValid := rfl
@[simp] theorem clearSegs_crc : s.clearSegs.crc = s.crc := rfl
@[simp] theorem clearSegs_segCount : s.clearSegs.segCount = 0 := rfl
@[simp] theorem clearSegs_segs : s.clearSegs.segs = Vector.replicate 8 ⟨0, 0⟩ := rfl
@[simp] theorem clearSegs_penalty : s.clearSegs.penalty = s.penalty := rfl
@[simp] theorem clearSegs_penR1 : s.clearSegs.penR1 = s.penR1 := rfl
@[simp] theorem clearSegs_penR2 : s.clearSegs.penR2 = s.penR2 := rfl
@[simp] theorem clearSegs_penR3 : s.clearSegs.penR3 = s.penR3 := rfl
@[simp] theorem clearSegs_penR4 : s.clearSegs.penR4 = s.penR4 := rfl
@[simp] theorem clearSegs_mscore : s.clearSegs.mscore = s.mscore := rfl
@[simp] theorem clearSegs_mem : s.clearSegs.mem = s.mem := rfl
@[simp] theorem clearSegs_matrix : s.clearSegs.matrix = s.matrix := rfl
@[simp] theorem clearSegs_prGen : s.clearSegs.prGen = s.prGen := rfl
@[simp] theorem clearSegs_bbGen : s.clearSegs.bbGen = s.bbGen := rfl
@[simp] theorem clearSegs_cwGen : s.clearSegs.cwGen = s.cwGen := rfl
@[simp] theorem clearSegs_draws : s.clearSegs.draws = s.draws := rfl
@[simp] theorem clearSegs_turns : s.clearSegs.turns = s.turns := rfl
@[simp] theorem clearSegs_resp : s.clearSegs.resp = s.resp := rfl

/-! ### addSeg -/

@[simp] theorem addSeg_irqEn (g : Segment) : (s.addSeg g).irqEn = s.irqEn := rfl
@[simp] theorem addSeg_busy (g : Segment) : (s.addSeg g).busy = s.busy := rfl
@[simp] theorem addSeg_done (g : Segment) : (s.addSeg g).done = s.done := rfl
@[simp] theorem addSeg_err (g : Segment) : (s.addSeg g).err = s.err := rfl
@[simp] theorem addSeg_ovr (g : Segment) : (s.addSeg g).ovr = s.ovr := rfl
@[simp] theorem addSeg_errCode (g : Segment) : (s.addSeg g).errCode = s.errCode := rfl
@[simp] theorem addSeg_errOpcode (g : Segment) : (s.addSeg g).errOpcode = s.errOpcode := rfl
@[simp] theorem addSeg_latch (g : Segment) : (s.addSeg g).latch = s.latch := rfl
@[simp] theorem addSeg_arg0 (g : Segment) : (s.addSeg g).arg0 = s.arg0 := rfl
@[simp] theorem addSeg_arg1 (g : Segment) : (s.addSeg g).arg1 = s.arg1 := rfl
@[simp] theorem addSeg_res0 (g : Segment) : (s.addSeg g).res0 = s.res0 := rfl
@[simp] theorem addSeg_res1 (g : Segment) : (s.addSeg g).res1 = s.res1 := rfl
@[simp] theorem addSeg_paLen (g : Segment) : (s.addSeg g).paLen = s.paLen := rfl
@[simp] theorem addSeg_pbLen (g : Segment) : (s.addSeg g).pbLen = s.pbLen := rfl
@[simp] theorem addSeg_prLen (g : Segment) : (s.addSeg g).prLen = s.prLen := rfl
@[simp] theorem addSeg_bbLen (g : Segment) : (s.addSeg g).bbLen = s.bbLen := rfl
@[simp] theorem addSeg_cfg (g : Segment) : (s.addSeg g).cfg = s.cfg := rfl
@[simp] theorem addSeg_qrState (g : Segment) : (s.addSeg g).qrState = s.qrState := rfl
@[simp] theorem addSeg_qrVer (g : Segment) : (s.addSeg g).qrVer = s.qrVer := rfl
@[simp] theorem addSeg_cwValid (g : Segment) : (s.addSeg g).cwValid = s.cwValid := rfl
@[simp] theorem addSeg_cwTotal (g : Segment) : (s.addSeg g).cwTotal = s.cwTotal := rfl
@[simp] theorem addSeg_cwData (g : Segment) : (s.addSeg g).cwData = s.cwData := rfl
@[simp] theorem addSeg_qrSize (g : Segment) : (s.addSeg g).qrSize = s.qrSize := rfl
@[simp] theorem addSeg_layoutMask (g : Segment) : (s.addSeg g).layoutMask = s.layoutMask := rfl
@[simp] theorem addSeg_layoutTest (g : Segment) : (s.addSeg g).layoutTest = s.layoutTest := rfl
@[simp] theorem addSeg_chosen (g : Segment) : (s.addSeg g).chosen = s.chosen := rfl
@[simp] theorem addSeg_chosenValid (g : Segment) : (s.addSeg g).chosenValid = s.chosenValid := rfl
@[simp] theorem addSeg_crc (g : Segment) : (s.addSeg g).crc = s.crc := rfl
@[simp] theorem addSeg_segCount (g : Segment) : (s.addSeg g).segCount = s.segCount + 1 := rfl
@[simp] theorem addSeg_segs (g : Segment) : (s.addSeg g).segs = s.segs.setIfInBounds s.segCount.toNat g := rfl
@[simp] theorem addSeg_penalty (g : Segment) : (s.addSeg g).penalty = s.penalty := rfl
@[simp] theorem addSeg_penR1 (g : Segment) : (s.addSeg g).penR1 = s.penR1 := rfl
@[simp] theorem addSeg_penR2 (g : Segment) : (s.addSeg g).penR2 = s.penR2 := rfl
@[simp] theorem addSeg_penR3 (g : Segment) : (s.addSeg g).penR3 = s.penR3 := rfl
@[simp] theorem addSeg_penR4 (g : Segment) : (s.addSeg g).penR4 = s.penR4 := rfl
@[simp] theorem addSeg_mscore (g : Segment) : (s.addSeg g).mscore = s.mscore := rfl
@[simp] theorem addSeg_mem (g : Segment) : (s.addSeg g).mem = s.mem := rfl
@[simp] theorem addSeg_matrix (g : Segment) : (s.addSeg g).matrix = s.matrix := rfl
@[simp] theorem addSeg_prGen (g : Segment) : (s.addSeg g).prGen = s.prGen := rfl
@[simp] theorem addSeg_bbGen (g : Segment) : (s.addSeg g).bbGen = s.bbGen := rfl
@[simp] theorem addSeg_cwGen (g : Segment) : (s.addSeg g).cwGen = s.cwGen := rfl
@[simp] theorem addSeg_draws (g : Segment) : (s.addSeg g).draws = s.draws := rfl
@[simp] theorem addSeg_turns (g : Segment) : (s.addSeg g).turns = s.turns := rfl
@[simp] theorem addSeg_resp (g : Segment) : (s.addSeg g).resp = s.resp := rfl

/-! ### invalidate -/

@[simp] theorem invalidate_irqEn : s.invalidate.irqEn = s.irqEn := rfl
@[simp] theorem invalidate_busy : s.invalidate.busy = s.busy := rfl
@[simp] theorem invalidate_done : s.invalidate.done = s.done := rfl
@[simp] theorem invalidate_err : s.invalidate.err = s.err := rfl
@[simp] theorem invalidate_ovr : s.invalidate.ovr = s.ovr := rfl
@[simp] theorem invalidate_errCode : s.invalidate.errCode = s.errCode := rfl
@[simp] theorem invalidate_errOpcode : s.invalidate.errOpcode = s.errOpcode := rfl
@[simp] theorem invalidate_latch : s.invalidate.latch = s.latch := rfl
@[simp] theorem invalidate_arg0 : s.invalidate.arg0 = s.arg0 := rfl
@[simp] theorem invalidate_arg1 : s.invalidate.arg1 = s.arg1 := rfl
@[simp] theorem invalidate_res0 : s.invalidate.res0 = s.res0 := rfl
@[simp] theorem invalidate_res1 : s.invalidate.res1 = s.res1 := rfl
@[simp] theorem invalidate_paLen : s.invalidate.paLen = s.paLen := rfl
@[simp] theorem invalidate_pbLen : s.invalidate.pbLen = s.pbLen := rfl
@[simp] theorem invalidate_prLen : s.invalidate.prLen = s.prLen := rfl
@[simp] theorem invalidate_bbLen : s.invalidate.bbLen = s.bbLen := rfl
@[simp] theorem invalidate_cfg : s.invalidate.cfg = s.cfg := rfl
@[simp] theorem invalidate_qrState : s.invalidate.qrState = s.qrState := rfl
@[simp] theorem invalidate_qrVer : s.invalidate.qrVer = s.qrVer := rfl
@[simp] theorem invalidate_cwValid : s.invalidate.cwValid = false := rfl
@[simp] theorem invalidate_cwTotal : s.invalidate.cwTotal = 0 := rfl
@[simp] theorem invalidate_cwData : s.invalidate.cwData = 0 := rfl
@[simp] theorem invalidate_qrSize : s.invalidate.qrSize = 0 := rfl
@[simp] theorem invalidate_layoutMask : s.invalidate.layoutMask = 0 := rfl
@[simp] theorem invalidate_layoutTest : s.invalidate.layoutTest = false := rfl
@[simp] theorem invalidate_chosen : s.invalidate.chosen = 0 := rfl
@[simp] theorem invalidate_chosenValid : s.invalidate.chosenValid = false := rfl
@[simp] theorem invalidate_crc : s.invalidate.crc = s.crc := rfl
@[simp] theorem invalidate_segCount : s.invalidate.segCount = s.segCount := rfl
@[simp] theorem invalidate_segs : s.invalidate.segs = s.segs := rfl
@[simp] theorem invalidate_penalty : s.invalidate.penalty = s.penalty := rfl
@[simp] theorem invalidate_penR1 : s.invalidate.penR1 = s.penR1 := rfl
@[simp] theorem invalidate_penR2 : s.invalidate.penR2 = s.penR2 := rfl
@[simp] theorem invalidate_penR3 : s.invalidate.penR3 = s.penR3 := rfl
@[simp] theorem invalidate_penR4 : s.invalidate.penR4 = s.penR4 := rfl
@[simp] theorem invalidate_mscore : s.invalidate.mscore = s.mscore := rfl
@[simp] theorem invalidate_mem : s.invalidate.mem = s.mem.setWindow (Window.base .cw) (Window.size .cw) [] := rfl
@[simp] theorem invalidate_matrix : s.invalidate.matrix = [] := rfl
@[simp] theorem invalidate_prGen : s.invalidate.prGen = s.prGen := rfl
@[simp] theorem invalidate_bbGen : s.invalidate.bbGen = s.bbGen := rfl
@[simp] theorem invalidate_cwGen : s.invalidate.cwGen = s.cwGen + 1 := rfl
@[simp] theorem invalidate_draws : s.invalidate.draws = s.draws := rfl
@[simp] theorem invalidate_turns : s.invalidate.turns = s.turns := rfl
@[simp] theorem invalidate_resp : s.invalidate.resp = s.resp := rfl

/-! ### storeCodewords -/

@[simp] theorem storeCodewords_irqEn (d c : List Byte) (dc tc : Nat) : (s.storeCodewords d c dc tc).irqEn = s.irqEn := rfl
@[simp] theorem storeCodewords_busy (d c : List Byte) (dc tc : Nat) : (s.storeCodewords d c dc tc).busy = s.busy := rfl
@[simp] theorem storeCodewords_done (d c : List Byte) (dc tc : Nat) : (s.storeCodewords d c dc tc).done = s.done := rfl
@[simp] theorem storeCodewords_err (d c : List Byte) (dc tc : Nat) : (s.storeCodewords d c dc tc).err = s.err := rfl
@[simp] theorem storeCodewords_ovr (d c : List Byte) (dc tc : Nat) : (s.storeCodewords d c dc tc).ovr = s.ovr := rfl
@[simp] theorem storeCodewords_errCode (d c : List Byte) (dc tc : Nat) : (s.storeCodewords d c dc tc).errCode = s.errCode := rfl
@[simp] theorem storeCodewords_errOpcode (d c : List Byte) (dc tc : Nat) : (s.storeCodewords d c dc tc).errOpcode = s.errOpcode := rfl
@[simp] theorem storeCodewords_latch (d c : List Byte) (dc tc : Nat) : (s.storeCodewords d c dc tc).latch = s.latch := rfl
@[simp] theorem storeCodewords_arg0 (d c : List Byte) (dc tc : Nat) : (s.storeCodewords d c dc tc).arg0 = s.arg0 := rfl
@[simp] theorem storeCodewords_arg1 (d c : List Byte) (dc tc : Nat) : (s.storeCodewords d c dc tc).arg1 = s.arg1 := rfl
@[simp] theorem storeCodewords_res0 (d c : List Byte) (dc tc : Nat) : (s.storeCodewords d c dc tc).res0 = s.res0 := rfl
@[simp] theorem storeCodewords_res1 (d c : List Byte) (dc tc : Nat) : (s.storeCodewords d c dc tc).res1 = s.res1 := rfl
@[simp] theorem storeCodewords_paLen (d c : List Byte) (dc tc : Nat) : (s.storeCodewords d c dc tc).paLen = s.paLen := rfl
@[simp] theorem storeCodewords_pbLen (d c : List Byte) (dc tc : Nat) : (s.storeCodewords d c dc tc).pbLen = s.pbLen := rfl
@[simp] theorem storeCodewords_prLen (d c : List Byte) (dc tc : Nat) : (s.storeCodewords d c dc tc).prLen = s.prLen := rfl
@[simp] theorem storeCodewords_bbLen (d c : List Byte) (dc tc : Nat) : (s.storeCodewords d c dc tc).bbLen = BitVec.ofNat 16 (8 * dc) := rfl
@[simp] theorem storeCodewords_cfg (d c : List Byte) (dc tc : Nat) : (s.storeCodewords d c dc tc).cfg = s.cfg := rfl
@[simp] theorem storeCodewords_qrState (d c : List Byte) (dc tc : Nat) : (s.storeCodewords d c dc tc).qrState = s.qrState := rfl
@[simp] theorem storeCodewords_qrVer (d c : List Byte) (dc tc : Nat) : (s.storeCodewords d c dc tc).qrVer = s.qrVer := rfl
@[simp] theorem storeCodewords_cwValid (d c : List Byte) (dc tc : Nat) : (s.storeCodewords d c dc tc).cwValid = true := rfl
@[simp] theorem storeCodewords_cwTotal (d c : List Byte) (dc tc : Nat) : (s.storeCodewords d c dc tc).cwTotal = BitVec.ofNat 12 tc := rfl
@[simp] theorem storeCodewords_cwData (d c : List Byte) (dc tc : Nat) : (s.storeCodewords d c dc tc).cwData = BitVec.ofNat 12 dc := rfl
@[simp] theorem storeCodewords_qrSize (d c : List Byte) (dc tc : Nat) : (s.storeCodewords d c dc tc).qrSize = s.qrSize := rfl
@[simp] theorem storeCodewords_layoutMask (d c : List Byte) (dc tc : Nat) : (s.storeCodewords d c dc tc).layoutMask = s.layoutMask := rfl
@[simp] theorem storeCodewords_layoutTest (d c : List Byte) (dc tc : Nat) : (s.storeCodewords d c dc tc).layoutTest = s.layoutTest := rfl
@[simp] theorem storeCodewords_chosen (d c : List Byte) (dc tc : Nat) : (s.storeCodewords d c dc tc).chosen = s.chosen := rfl
@[simp] theorem storeCodewords_chosenValid (d c : List Byte) (dc tc : Nat) : (s.storeCodewords d c dc tc).chosenValid = s.chosenValid := rfl
@[simp] theorem storeCodewords_crc (d c : List Byte) (dc tc : Nat) : (s.storeCodewords d c dc tc).crc = s.crc := rfl
@[simp] theorem storeCodewords_segCount (d c : List Byte) (dc tc : Nat) : (s.storeCodewords d c dc tc).segCount = s.segCount := rfl
@[simp] theorem storeCodewords_segs (d c : List Byte) (dc tc : Nat) : (s.storeCodewords d c dc tc).segs = s.segs := rfl
@[simp] theorem storeCodewords_penalty (d c : List Byte) (dc tc : Nat) : (s.storeCodewords d c dc tc).penalty = s.penalty := rfl
@[simp] theorem storeCodewords_penR1 (d c : List Byte) (dc tc : Nat) : (s.storeCodewords d c dc tc).penR1 = s.penR1 := rfl
@[simp] theorem storeCodewords_penR2 (d c : List Byte) (dc tc : Nat) : (s.storeCodewords d c dc tc).penR2 = s.penR2 := rfl
@[simp] theorem storeCodewords_penR3 (d c : List Byte) (dc tc : Nat) : (s.storeCodewords d c dc tc).penR3 = s.penR3 := rfl
@[simp] theorem storeCodewords_penR4 (d c : List Byte) (dc tc : Nat) : (s.storeCodewords d c dc tc).penR4 = s.penR4 := rfl
@[simp] theorem storeCodewords_mscore (d c : List Byte) (dc tc : Nat) : (s.storeCodewords d c dc tc).mscore = s.mscore := rfl
@[simp] theorem storeCodewords_mem (d c : List Byte) (dc tc : Nat) : (s.storeCodewords d c dc tc).mem = (s.mem.setWindow (Window.base .bb) (Window.size .bb) d).setWindow (Window.base .cw) (Window.size .cw) c := rfl
@[simp] theorem storeCodewords_matrix (d c : List Byte) (dc tc : Nat) : (s.storeCodewords d c dc tc).matrix = s.matrix := rfl
@[simp] theorem storeCodewords_prGen (d c : List Byte) (dc tc : Nat) : (s.storeCodewords d c dc tc).prGen = s.prGen := rfl
@[simp] theorem storeCodewords_bbGen (d c : List Byte) (dc tc : Nat) : (s.storeCodewords d c dc tc).bbGen = s.bbGen + 1 := rfl
@[simp] theorem storeCodewords_cwGen (d c : List Byte) (dc tc : Nat) : (s.storeCodewords d c dc tc).cwGen = s.cwGen + 1 := rfl
@[simp] theorem storeCodewords_draws (d c : List Byte) (dc tc : Nat) : (s.storeCodewords d c dc tc).draws = s.draws := rfl
@[simp] theorem storeCodewords_turns (d c : List Byte) (dc tc : Nat) : (s.storeCodewords d c dc tc).turns = s.turns := rfl
@[simp] theorem storeCodewords_resp (d c : List Byte) (dc tc : Nat) : (s.storeCodewords d c dc tc).resp = s.resp := rfl

/-! ### storeMatrix -/

@[simp] theorem storeMatrix_irqEn (g : Grid) (n : Nat) (k : BitVec 3) (b : Bool) : (s.storeMatrix g n k b).irqEn = s.irqEn := rfl
@[simp] theorem storeMatrix_busy (g : Grid) (n : Nat) (k : BitVec 3) (b : Bool) : (s.storeMatrix g n k b).busy = s.busy := rfl
@[simp] theorem storeMatrix_done (g : Grid) (n : Nat) (k : BitVec 3) (b : Bool) : (s.storeMatrix g n k b).done = s.done := rfl
@[simp] theorem storeMatrix_err (g : Grid) (n : Nat) (k : BitVec 3) (b : Bool) : (s.storeMatrix g n k b).err = s.err := rfl
@[simp] theorem storeMatrix_ovr (g : Grid) (n : Nat) (k : BitVec 3) (b : Bool) : (s.storeMatrix g n k b).ovr = s.ovr := rfl
@[simp] theorem storeMatrix_errCode (g : Grid) (n : Nat) (k : BitVec 3) (b : Bool) : (s.storeMatrix g n k b).errCode = s.errCode := rfl
@[simp] theorem storeMatrix_errOpcode (g : Grid) (n : Nat) (k : BitVec 3) (b : Bool) : (s.storeMatrix g n k b).errOpcode = s.errOpcode := rfl
@[simp] theorem storeMatrix_latch (g : Grid) (n : Nat) (k : BitVec 3) (b : Bool) : (s.storeMatrix g n k b).latch = s.latch := rfl
@[simp] theorem storeMatrix_arg0 (g : Grid) (n : Nat) (k : BitVec 3) (b : Bool) : (s.storeMatrix g n k b).arg0 = s.arg0 := rfl
@[simp] theorem storeMatrix_arg1 (g : Grid) (n : Nat) (k : BitVec 3) (b : Bool) : (s.storeMatrix g n k b).arg1 = s.arg1 := rfl
@[simp] theorem storeMatrix_res0 (g : Grid) (n : Nat) (k : BitVec 3) (b : Bool) : (s.storeMatrix g n k b).res0 = s.res0 := rfl
@[simp] theorem storeMatrix_res1 (g : Grid) (n : Nat) (k : BitVec 3) (b : Bool) : (s.storeMatrix g n k b).res1 = s.res1 := rfl
@[simp] theorem storeMatrix_paLen (g : Grid) (n : Nat) (k : BitVec 3) (b : Bool) : (s.storeMatrix g n k b).paLen = s.paLen := rfl
@[simp] theorem storeMatrix_pbLen (g : Grid) (n : Nat) (k : BitVec 3) (b : Bool) : (s.storeMatrix g n k b).pbLen = s.pbLen := rfl
@[simp] theorem storeMatrix_prLen (g : Grid) (n : Nat) (k : BitVec 3) (b : Bool) : (s.storeMatrix g n k b).prLen = s.prLen := rfl
@[simp] theorem storeMatrix_bbLen (g : Grid) (n : Nat) (k : BitVec 3) (b : Bool) : (s.storeMatrix g n k b).bbLen = s.bbLen := rfl
@[simp] theorem storeMatrix_cfg (g : Grid) (n : Nat) (k : BitVec 3) (b : Bool) : (s.storeMatrix g n k b).cfg = s.cfg := rfl
@[simp] theorem storeMatrix_qrState (g : Grid) (n : Nat) (k : BitVec 3) (b : Bool) : (s.storeMatrix g n k b).qrState = s.qrState := rfl
@[simp] theorem storeMatrix_qrVer (g : Grid) (n : Nat) (k : BitVec 3) (b : Bool) : (s.storeMatrix g n k b).qrVer = s.qrVer := rfl
@[simp] theorem storeMatrix_cwValid (g : Grid) (n : Nat) (k : BitVec 3) (b : Bool) : (s.storeMatrix g n k b).cwValid = s.cwValid := rfl
@[simp] theorem storeMatrix_cwTotal (g : Grid) (n : Nat) (k : BitVec 3) (b : Bool) : (s.storeMatrix g n k b).cwTotal = s.cwTotal := rfl
@[simp] theorem storeMatrix_cwData (g : Grid) (n : Nat) (k : BitVec 3) (b : Bool) : (s.storeMatrix g n k b).cwData = s.cwData := rfl
@[simp] theorem storeMatrix_qrSize (g : Grid) (n : Nat) (k : BitVec 3) (b : Bool) : (s.storeMatrix g n k b).qrSize = BitVec.ofNat 8 n := rfl
@[simp] theorem storeMatrix_layoutMask (g : Grid) (n : Nat) (k : BitVec 3) (b : Bool) : (s.storeMatrix g n k b).layoutMask = k := rfl
@[simp] theorem storeMatrix_layoutTest (g : Grid) (n : Nat) (k : BitVec 3) (b : Bool) : (s.storeMatrix g n k b).layoutTest = b := rfl
@[simp] theorem storeMatrix_chosen (g : Grid) (n : Nat) (k : BitVec 3) (b : Bool) : (s.storeMatrix g n k b).chosen = s.chosen := rfl
@[simp] theorem storeMatrix_chosenValid (g : Grid) (n : Nat) (k : BitVec 3) (b : Bool) : (s.storeMatrix g n k b).chosenValid = s.chosenValid := rfl
@[simp] theorem storeMatrix_crc (g : Grid) (n : Nat) (k : BitVec 3) (b : Bool) : (s.storeMatrix g n k b).crc = s.crc := rfl
@[simp] theorem storeMatrix_segCount (g : Grid) (n : Nat) (k : BitVec 3) (b : Bool) : (s.storeMatrix g n k b).segCount = s.segCount := rfl
@[simp] theorem storeMatrix_segs (g : Grid) (n : Nat) (k : BitVec 3) (b : Bool) : (s.storeMatrix g n k b).segs = s.segs := rfl
@[simp] theorem storeMatrix_penalty (g : Grid) (n : Nat) (k : BitVec 3) (b : Bool) : (s.storeMatrix g n k b).penalty = s.penalty := rfl
@[simp] theorem storeMatrix_penR1 (g : Grid) (n : Nat) (k : BitVec 3) (b : Bool) : (s.storeMatrix g n k b).penR1 = s.penR1 := rfl
@[simp] theorem storeMatrix_penR2 (g : Grid) (n : Nat) (k : BitVec 3) (b : Bool) : (s.storeMatrix g n k b).penR2 = s.penR2 := rfl
@[simp] theorem storeMatrix_penR3 (g : Grid) (n : Nat) (k : BitVec 3) (b : Bool) : (s.storeMatrix g n k b).penR3 = s.penR3 := rfl
@[simp] theorem storeMatrix_penR4 (g : Grid) (n : Nat) (k : BitVec 3) (b : Bool) : (s.storeMatrix g n k b).penR4 = s.penR4 := rfl
@[simp] theorem storeMatrix_mscore (g : Grid) (n : Nat) (k : BitVec 3) (b : Bool) : (s.storeMatrix g n k b).mscore = s.mscore := rfl
@[simp] theorem storeMatrix_mem (g : Grid) (n : Nat) (k : BitVec 3) (b : Bool) : (s.storeMatrix g n k b).mem = s.mem := rfl
@[simp] theorem storeMatrix_matrix (g : Grid) (n : Nat) (k : BitVec 3) (b : Bool) : (s.storeMatrix g n k b).matrix = g := rfl
@[simp] theorem storeMatrix_prGen (g : Grid) (n : Nat) (k : BitVec 3) (b : Bool) : (s.storeMatrix g n k b).prGen = s.prGen := rfl
@[simp] theorem storeMatrix_bbGen (g : Grid) (n : Nat) (k : BitVec 3) (b : Bool) : (s.storeMatrix g n k b).bbGen = s.bbGen := rfl
@[simp] theorem storeMatrix_cwGen (g : Grid) (n : Nat) (k : BitVec 3) (b : Bool) : (s.storeMatrix g n k b).cwGen = s.cwGen := rfl
@[simp] theorem storeMatrix_draws (g : Grid) (n : Nat) (k : BitVec 3) (b : Bool) : (s.storeMatrix g n k b).draws = s.draws := rfl
@[simp] theorem storeMatrix_turns (g : Grid) (n : Nat) (k : BitVec 3) (b : Bool) : (s.storeMatrix g n k b).turns = s.turns := rfl
@[simp] theorem storeMatrix_resp (g : Grid) (n : Nat) (k : BitVec 3) (b : Bool) : (s.storeMatrix g n k b).resp = s.resp := rfl

/-! ### choose -/

@[simp] theorem choose_irqEn (k : BitVec 3) : (s.choose k).irqEn = s.irqEn := rfl
@[simp] theorem choose_busy (k : BitVec 3) : (s.choose k).busy = s.busy := rfl
@[simp] theorem choose_done (k : BitVec 3) : (s.choose k).done = s.done := rfl
@[simp] theorem choose_err (k : BitVec 3) : (s.choose k).err = s.err := rfl
@[simp] theorem choose_ovr (k : BitVec 3) : (s.choose k).ovr = s.ovr := rfl
@[simp] theorem choose_errCode (k : BitVec 3) : (s.choose k).errCode = s.errCode := rfl
@[simp] theorem choose_errOpcode (k : BitVec 3) : (s.choose k).errOpcode = s.errOpcode := rfl
@[simp] theorem choose_latch (k : BitVec 3) : (s.choose k).latch = s.latch := rfl
@[simp] theorem choose_arg0 (k : BitVec 3) : (s.choose k).arg0 = s.arg0 := rfl
@[simp] theorem choose_arg1 (k : BitVec 3) : (s.choose k).arg1 = s.arg1 := rfl
@[simp] theorem choose_res0 (k : BitVec 3) : (s.choose k).res0 = s.res0 := rfl
@[simp] theorem choose_res1 (k : BitVec 3) : (s.choose k).res1 = s.res1 := rfl
@[simp] theorem choose_paLen (k : BitVec 3) : (s.choose k).paLen = s.paLen := rfl
@[simp] theorem choose_pbLen (k : BitVec 3) : (s.choose k).pbLen = s.pbLen := rfl
@[simp] theorem choose_prLen (k : BitVec 3) : (s.choose k).prLen = s.prLen := rfl
@[simp] theorem choose_bbLen (k : BitVec 3) : (s.choose k).bbLen = s.bbLen := rfl
@[simp] theorem choose_cfg (k : BitVec 3) : (s.choose k).cfg = s.cfg := rfl
@[simp] theorem choose_qrState (k : BitVec 3) : (s.choose k).qrState = s.qrState := rfl
@[simp] theorem choose_qrVer (k : BitVec 3) : (s.choose k).qrVer = s.qrVer := rfl
@[simp] theorem choose_cwValid (k : BitVec 3) : (s.choose k).cwValid = s.cwValid := rfl
@[simp] theorem choose_cwTotal (k : BitVec 3) : (s.choose k).cwTotal = s.cwTotal := rfl
@[simp] theorem choose_cwData (k : BitVec 3) : (s.choose k).cwData = s.cwData := rfl
@[simp] theorem choose_qrSize (k : BitVec 3) : (s.choose k).qrSize = s.qrSize := rfl
@[simp] theorem choose_layoutMask (k : BitVec 3) : (s.choose k).layoutMask = s.layoutMask := rfl
@[simp] theorem choose_layoutTest (k : BitVec 3) : (s.choose k).layoutTest = s.layoutTest := rfl
@[simp] theorem choose_chosen (k : BitVec 3) : (s.choose k).chosen = k := rfl
@[simp] theorem choose_chosenValid (k : BitVec 3) : (s.choose k).chosenValid = true := rfl
@[simp] theorem choose_crc (k : BitVec 3) : (s.choose k).crc = s.crc := rfl
@[simp] theorem choose_segCount (k : BitVec 3) : (s.choose k).segCount = s.segCount := rfl
@[simp] theorem choose_segs (k : BitVec 3) : (s.choose k).segs = s.segs := rfl
@[simp] theorem choose_penalty (k : BitVec 3) : (s.choose k).penalty = s.penalty := rfl
@[simp] theorem choose_penR1 (k : BitVec 3) : (s.choose k).penR1 = s.penR1 := rfl
@[simp] theorem choose_penR2 (k : BitVec 3) : (s.choose k).penR2 = s.penR2 := rfl
@[simp] theorem choose_penR3 (k : BitVec 3) : (s.choose k).penR3 = s.penR3 := rfl
@[simp] theorem choose_penR4 (k : BitVec 3) : (s.choose k).penR4 = s.penR4 := rfl
@[simp] theorem choose_mscore (k : BitVec 3) : (s.choose k).mscore = s.mscore := rfl
@[simp] theorem choose_mem (k : BitVec 3) : (s.choose k).mem = s.mem := rfl
@[simp] theorem choose_matrix (k : BitVec 3) : (s.choose k).matrix = s.matrix := rfl
@[simp] theorem choose_prGen (k : BitVec 3) : (s.choose k).prGen = s.prGen := rfl
@[simp] theorem choose_bbGen (k : BitVec 3) : (s.choose k).bbGen = s.bbGen := rfl
@[simp] theorem choose_cwGen (k : BitVec 3) : (s.choose k).cwGen = s.cwGen := rfl
@[simp] theorem choose_draws (k : BitVec 3) : (s.choose k).draws = s.draws := rfl
@[simp] theorem choose_turns (k : BitVec 3) : (s.choose k).turns = s.turns := rfl
@[simp] theorem choose_resp (k : BitVec 3) : (s.choose k).resp = s.resp := rfl

/-! ### storePenalty -/

@[simp] theorem storePenalty_irqEn (t a b c d : Nat) : (s.storePenalty t a b c d).irqEn = s.irqEn := rfl
@[simp] theorem storePenalty_busy (t a b c d : Nat) : (s.storePenalty t a b c d).busy = s.busy := rfl
@[simp] theorem storePenalty_done (t a b c d : Nat) : (s.storePenalty t a b c d).done = s.done := rfl
@[simp] theorem storePenalty_err (t a b c d : Nat) : (s.storePenalty t a b c d).err = s.err := rfl
@[simp] theorem storePenalty_ovr (t a b c d : Nat) : (s.storePenalty t a b c d).ovr = s.ovr := rfl
@[simp] theorem storePenalty_errCode (t a b c d : Nat) : (s.storePenalty t a b c d).errCode = s.errCode := rfl
@[simp] theorem storePenalty_errOpcode (t a b c d : Nat) : (s.storePenalty t a b c d).errOpcode = s.errOpcode := rfl
@[simp] theorem storePenalty_latch (t a b c d : Nat) : (s.storePenalty t a b c d).latch = s.latch := rfl
@[simp] theorem storePenalty_arg0 (t a b c d : Nat) : (s.storePenalty t a b c d).arg0 = s.arg0 := rfl
@[simp] theorem storePenalty_arg1 (t a b c d : Nat) : (s.storePenalty t a b c d).arg1 = s.arg1 := rfl
@[simp] theorem storePenalty_res0 (t a b c d : Nat) : (s.storePenalty t a b c d).res0 = s.res0 := rfl
@[simp] theorem storePenalty_res1 (t a b c d : Nat) : (s.storePenalty t a b c d).res1 = s.res1 := rfl
@[simp] theorem storePenalty_paLen (t a b c d : Nat) : (s.storePenalty t a b c d).paLen = s.paLen := rfl
@[simp] theorem storePenalty_pbLen (t a b c d : Nat) : (s.storePenalty t a b c d).pbLen = s.pbLen := rfl
@[simp] theorem storePenalty_prLen (t a b c d : Nat) : (s.storePenalty t a b c d).prLen = s.prLen := rfl
@[simp] theorem storePenalty_bbLen (t a b c d : Nat) : (s.storePenalty t a b c d).bbLen = s.bbLen := rfl
@[simp] theorem storePenalty_cfg (t a b c d : Nat) : (s.storePenalty t a b c d).cfg = s.cfg := rfl
@[simp] theorem storePenalty_qrState (t a b c d : Nat) : (s.storePenalty t a b c d).qrState = s.qrState := rfl
@[simp] theorem storePenalty_qrVer (t a b c d : Nat) : (s.storePenalty t a b c d).qrVer = s.qrVer := rfl
@[simp] theorem storePenalty_cwValid (t a b c d : Nat) : (s.storePenalty t a b c d).cwValid = s.cwValid := rfl
@[simp] theorem storePenalty_cwTotal (t a b c d : Nat) : (s.storePenalty t a b c d).cwTotal = s.cwTotal := rfl
@[simp] theorem storePenalty_cwData (t a b c d : Nat) : (s.storePenalty t a b c d).cwData = s.cwData := rfl
@[simp] theorem storePenalty_qrSize (t a b c d : Nat) : (s.storePenalty t a b c d).qrSize = s.qrSize := rfl
@[simp] theorem storePenalty_layoutMask (t a b c d : Nat) : (s.storePenalty t a b c d).layoutMask = s.layoutMask := rfl
@[simp] theorem storePenalty_layoutTest (t a b c d : Nat) : (s.storePenalty t a b c d).layoutTest = s.layoutTest := rfl
@[simp] theorem storePenalty_chosen (t a b c d : Nat) : (s.storePenalty t a b c d).chosen = s.chosen := rfl
@[simp] theorem storePenalty_chosenValid (t a b c d : Nat) : (s.storePenalty t a b c d).chosenValid = s.chosenValid := rfl
@[simp] theorem storePenalty_crc (t a b c d : Nat) : (s.storePenalty t a b c d).crc = s.crc := rfl
@[simp] theorem storePenalty_segCount (t a b c d : Nat) : (s.storePenalty t a b c d).segCount = s.segCount := rfl
@[simp] theorem storePenalty_segs (t a b c d : Nat) : (s.storePenalty t a b c d).segs = s.segs := rfl
@[simp] theorem storePenalty_penalty (t a b c d : Nat) : (s.storePenalty t a b c d).penalty = BitVec.ofNat 32 t := rfl
@[simp] theorem storePenalty_penR1 (t a b c d : Nat) : (s.storePenalty t a b c d).penR1 = BitVec.ofNat 32 a := rfl
@[simp] theorem storePenalty_penR2 (t a b c d : Nat) : (s.storePenalty t a b c d).penR2 = BitVec.ofNat 32 b := rfl
@[simp] theorem storePenalty_penR3 (t a b c d : Nat) : (s.storePenalty t a b c d).penR3 = BitVec.ofNat 32 c := rfl
@[simp] theorem storePenalty_penR4 (t a b c d : Nat) : (s.storePenalty t a b c d).penR4 = BitVec.ofNat 32 d := rfl
@[simp] theorem storePenalty_mscore (t a b c d : Nat) : (s.storePenalty t a b c d).mscore = s.mscore := rfl
@[simp] theorem storePenalty_mem (t a b c d : Nat) : (s.storePenalty t a b c d).mem = s.mem := rfl
@[simp] theorem storePenalty_matrix (t a b c d : Nat) : (s.storePenalty t a b c d).matrix = s.matrix := rfl
@[simp] theorem storePenalty_prGen (t a b c d : Nat) : (s.storePenalty t a b c d).prGen = s.prGen := rfl
@[simp] theorem storePenalty_bbGen (t a b c d : Nat) : (s.storePenalty t a b c d).bbGen = s.bbGen := rfl
@[simp] theorem storePenalty_cwGen (t a b c d : Nat) : (s.storePenalty t a b c d).cwGen = s.cwGen := rfl
@[simp] theorem storePenalty_draws (t a b c d : Nat) : (s.storePenalty t a b c d).draws = s.draws := rfl
@[simp] theorem storePenalty_turns (t a b c d : Nat) : (s.storePenalty t a b c d).turns = s.turns := rfl
@[simp] theorem storePenalty_resp (t a b c d : Nat) : (s.storePenalty t a b c d).resp = s.resp := rfl

/-! ### storeScores -/

@[simp] theorem storeScores_irqEn (l : List Nat) : (s.storeScores l).irqEn = s.irqEn := rfl
@[simp] theorem storeScores_busy (l : List Nat) : (s.storeScores l).busy = s.busy := rfl
@[simp] theorem storeScores_done (l : List Nat) : (s.storeScores l).done = s.done := rfl
@[simp] theorem storeScores_err (l : List Nat) : (s.storeScores l).err = s.err := rfl
@[simp] theorem storeScores_ovr (l : List Nat) : (s.storeScores l).ovr = s.ovr := rfl
@[simp] theorem storeScores_errCode (l : List Nat) : (s.storeScores l).errCode = s.errCode := rfl
@[simp] theorem storeScores_errOpcode (l : List Nat) : (s.storeScores l).errOpcode = s.errOpcode := rfl
@[simp] theorem storeScores_latch (l : List Nat) : (s.storeScores l).latch = s.latch := rfl
@[simp] theorem storeScores_arg0 (l : List Nat) : (s.storeScores l).arg0 = s.arg0 := rfl
@[simp] theorem storeScores_arg1 (l : List Nat) : (s.storeScores l).arg1 = s.arg1 := rfl
@[simp] theorem storeScores_res0 (l : List Nat) : (s.storeScores l).res0 = s.res0 := rfl
@[simp] theorem storeScores_res1 (l : List Nat) : (s.storeScores l).res1 = s.res1 := rfl
@[simp] theorem storeScores_paLen (l : List Nat) : (s.storeScores l).paLen = s.paLen := rfl
@[simp] theorem storeScores_pbLen (l : List Nat) : (s.storeScores l).pbLen = s.pbLen := rfl
@[simp] theorem storeScores_prLen (l : List Nat) : (s.storeScores l).prLen = s.prLen := rfl
@[simp] theorem storeScores_bbLen (l : List Nat) : (s.storeScores l).bbLen = s.bbLen := rfl
@[simp] theorem storeScores_cfg (l : List Nat) : (s.storeScores l).cfg = s.cfg := rfl
@[simp] theorem storeScores_qrState (l : List Nat) : (s.storeScores l).qrState = s.qrState := rfl
@[simp] theorem storeScores_qrVer (l : List Nat) : (s.storeScores l).qrVer = s.qrVer := rfl
@[simp] theorem storeScores_cwValid (l : List Nat) : (s.storeScores l).cwValid = s.cwValid := rfl
@[simp] theorem storeScores_cwTotal (l : List Nat) : (s.storeScores l).cwTotal = s.cwTotal := rfl
@[simp] theorem storeScores_cwData (l : List Nat) : (s.storeScores l).cwData = s.cwData := rfl
@[simp] theorem storeScores_qrSize (l : List Nat) : (s.storeScores l).qrSize = s.qrSize := rfl
@[simp] theorem storeScores_layoutMask (l : List Nat) : (s.storeScores l).layoutMask = s.layoutMask := rfl
@[simp] theorem storeScores_layoutTest (l : List Nat) : (s.storeScores l).layoutTest = s.layoutTest := rfl
@[simp] theorem storeScores_chosen (l : List Nat) : (s.storeScores l).chosen = s.chosen := rfl
@[simp] theorem storeScores_chosenValid (l : List Nat) : (s.storeScores l).chosenValid = s.chosenValid := rfl
@[simp] theorem storeScores_crc (l : List Nat) : (s.storeScores l).crc = s.crc := rfl
@[simp] theorem storeScores_segCount (l : List Nat) : (s.storeScores l).segCount = s.segCount := rfl
@[simp] theorem storeScores_segs (l : List Nat) : (s.storeScores l).segs = s.segs := rfl
@[simp] theorem storeScores_penalty (l : List Nat) : (s.storeScores l).penalty = s.penalty := rfl
@[simp] theorem storeScores_penR1 (l : List Nat) : (s.storeScores l).penR1 = s.penR1 := rfl
@[simp] theorem storeScores_penR2 (l : List Nat) : (s.storeScores l).penR2 = s.penR2 := rfl
@[simp] theorem storeScores_penR3 (l : List Nat) : (s.storeScores l).penR3 = s.penR3 := rfl
@[simp] theorem storeScores_penR4 (l : List Nat) : (s.storeScores l).penR4 = s.penR4 := rfl
@[simp] theorem storeScores_mscore (l : List Nat) : (s.storeScores l).mscore = Vector.ofFn (fun k : Fin 8 => BitVec.ofNat 32 (l.getD k.val 0)) := rfl
@[simp] theorem storeScores_mem (l : List Nat) : (s.storeScores l).mem = s.mem := rfl
@[simp] theorem storeScores_matrix (l : List Nat) : (s.storeScores l).matrix = s.matrix := rfl
@[simp] theorem storeScores_prGen (l : List Nat) : (s.storeScores l).prGen = s.prGen := rfl
@[simp] theorem storeScores_bbGen (l : List Nat) : (s.storeScores l).bbGen = s.bbGen := rfl
@[simp] theorem storeScores_cwGen (l : List Nat) : (s.storeScores l).cwGen = s.cwGen := rfl
@[simp] theorem storeScores_draws (l : List Nat) : (s.storeScores l).draws = s.draws := rfl
@[simp] theorem storeScores_turns (l : List Nat) : (s.storeScores l).turns = s.turns := rfl
@[simp] theorem storeScores_resp (l : List Nat) : (s.storeScores l).resp = s.resp := rfl

/-! ### setTurns -/

@[simp] theorem setTurns_irqEn (l : List Turn) : (s.setTurns l).irqEn = s.irqEn := rfl
@[simp] theorem setTurns_busy (l : List Turn) : (s.setTurns l).busy = s.busy := rfl
@[simp] theorem setTurns_done (l : List Turn) : (s.setTurns l).done = s.done := rfl
@[simp] theorem setTurns_err (l : List Turn) : (s.setTurns l).err = s.err := rfl
@[simp] theorem setTurns_ovr (l : List Turn) : (s.setTurns l).ovr = s.ovr := rfl
@[simp] theorem setTurns_errCode (l : List Turn) : (s.setTurns l).errCode = s.errCode := rfl
@[simp] theorem setTurns_errOpcode (l : List Turn) : (s.setTurns l).errOpcode = s.errOpcode := rfl
@[simp] theorem setTurns_latch (l : List Turn) : (s.setTurns l).latch = s.latch := rfl
@[simp] theorem setTurns_arg0 (l : List Turn) : (s.setTurns l).arg0 = s.arg0 := rfl
@[simp] theorem setTurns_arg1 (l : List Turn) : (s.setTurns l).arg1 = s.arg1 := rfl
@[simp] theorem setTurns_res0 (l : List Turn) : (s.setTurns l).res0 = s.res0 := rfl
@[simp] theorem setTurns_res1 (l : List Turn) : (s.setTurns l).res1 = s.res1 := rfl
@[simp] theorem setTurns_paLen (l : List Turn) : (s.setTurns l).paLen = s.paLen := rfl
@[simp] theorem setTurns_pbLen (l : List Turn) : (s.setTurns l).pbLen = s.pbLen := rfl
@[simp] theorem setTurns_prLen (l : List Turn) : (s.setTurns l).prLen = s.prLen := rfl
@[simp] theorem setTurns_bbLen (l : List Turn) : (s.setTurns l).bbLen = s.bbLen := rfl
@[simp] theorem setTurns_cfg (l : List Turn) : (s.setTurns l).cfg = s.cfg := rfl
@[simp] theorem setTurns_qrState (l : List Turn) : (s.setTurns l).qrState = s.qrState := rfl
@[simp] theorem setTurns_qrVer (l : List Turn) : (s.setTurns l).qrVer = s.qrVer := rfl
@[simp] theorem setTurns_cwValid (l : List Turn) : (s.setTurns l).cwValid = s.cwValid := rfl
@[simp] theorem setTurns_cwTotal (l : List Turn) : (s.setTurns l).cwTotal = s.cwTotal := rfl
@[simp] theorem setTurns_cwData (l : List Turn) : (s.setTurns l).cwData = s.cwData := rfl
@[simp] theorem setTurns_qrSize (l : List Turn) : (s.setTurns l).qrSize = s.qrSize := rfl
@[simp] theorem setTurns_layoutMask (l : List Turn) : (s.setTurns l).layoutMask = s.layoutMask := rfl
@[simp] theorem setTurns_layoutTest (l : List Turn) : (s.setTurns l).layoutTest = s.layoutTest := rfl
@[simp] theorem setTurns_chosen (l : List Turn) : (s.setTurns l).chosen = s.chosen := rfl
@[simp] theorem setTurns_chosenValid (l : List Turn) : (s.setTurns l).chosenValid = s.chosenValid := rfl
@[simp] theorem setTurns_crc (l : List Turn) : (s.setTurns l).crc = s.crc := rfl
@[simp] theorem setTurns_segCount (l : List Turn) : (s.setTurns l).segCount = s.segCount := rfl
@[simp] theorem setTurns_segs (l : List Turn) : (s.setTurns l).segs = s.segs := rfl
@[simp] theorem setTurns_penalty (l : List Turn) : (s.setTurns l).penalty = s.penalty := rfl
@[simp] theorem setTurns_penR1 (l : List Turn) : (s.setTurns l).penR1 = s.penR1 := rfl
@[simp] theorem setTurns_penR2 (l : List Turn) : (s.setTurns l).penR2 = s.penR2 := rfl
@[simp] theorem setTurns_penR3 (l : List Turn) : (s.setTurns l).penR3 = s.penR3 := rfl
@[simp] theorem setTurns_penR4 (l : List Turn) : (s.setTurns l).penR4 = s.penR4 := rfl
@[simp] theorem setTurns_mscore (l : List Turn) : (s.setTurns l).mscore = s.mscore := rfl
@[simp] theorem setTurns_mem (l : List Turn) : (s.setTurns l).mem = s.mem := rfl
@[simp] theorem setTurns_matrix (l : List Turn) : (s.setTurns l).matrix = s.matrix := rfl
@[simp] theorem setTurns_prGen (l : List Turn) : (s.setTurns l).prGen = s.prGen := rfl
@[simp] theorem setTurns_bbGen (l : List Turn) : (s.setTurns l).bbGen = s.bbGen := rfl
@[simp] theorem setTurns_cwGen (l : List Turn) : (s.setTurns l).cwGen = s.cwGen := rfl
@[simp] theorem setTurns_draws (l : List Turn) : (s.setTurns l).draws = s.draws := rfl
@[simp] theorem setTurns_turns (l : List Turn) : (s.setTurns l).turns = l := rfl
@[simp] theorem setTurns_resp (l : List Turn) : (s.setTurns l).resp = s.resp := rfl

/-! ### respond -/

@[simp] theorem respond_irqEn (r : HostResp) : (s.respond r).irqEn = s.irqEn := rfl
@[simp] theorem respond_busy (r : HostResp) : (s.respond r).busy = s.busy := rfl
@[simp] theorem respond_done (r : HostResp) : (s.respond r).done = s.done := rfl
@[simp] theorem respond_err (r : HostResp) : (s.respond r).err = s.err := rfl
@[simp] theorem respond_ovr (r : HostResp) : (s.respond r).ovr = s.ovr := rfl
@[simp] theorem respond_errCode (r : HostResp) : (s.respond r).errCode = s.errCode := rfl
@[simp] theorem respond_errOpcode (r : HostResp) : (s.respond r).errOpcode = s.errOpcode := rfl
@[simp] theorem respond_latch (r : HostResp) : (s.respond r).latch = s.latch := rfl
@[simp] theorem respond_arg0 (r : HostResp) : (s.respond r).arg0 = s.arg0 := rfl
@[simp] theorem respond_arg1 (r : HostResp) : (s.respond r).arg1 = s.arg1 := rfl
@[simp] theorem respond_res0 (r : HostResp) : (s.respond r).res0 = s.res0 := rfl
@[simp] theorem respond_res1 (r : HostResp) : (s.respond r).res1 = s.res1 := rfl
@[simp] theorem respond_paLen (r : HostResp) : (s.respond r).paLen = s.paLen := rfl
@[simp] theorem respond_pbLen (r : HostResp) : (s.respond r).pbLen = s.pbLen := rfl
@[simp] theorem respond_prLen (r : HostResp) : (s.respond r).prLen = s.prLen := rfl
@[simp] theorem respond_bbLen (r : HostResp) : (s.respond r).bbLen = s.bbLen := rfl
@[simp] theorem respond_cfg (r : HostResp) : (s.respond r).cfg = s.cfg := rfl
@[simp] theorem respond_qrState (r : HostResp) : (s.respond r).qrState = s.qrState := rfl
@[simp] theorem respond_qrVer (r : HostResp) : (s.respond r).qrVer = s.qrVer := rfl
@[simp] theorem respond_cwValid (r : HostResp) : (s.respond r).cwValid = s.cwValid := rfl
@[simp] theorem respond_cwTotal (r : HostResp) : (s.respond r).cwTotal = s.cwTotal := rfl
@[simp] theorem respond_cwData (r : HostResp) : (s.respond r).cwData = s.cwData := rfl
@[simp] theorem respond_qrSize (r : HostResp) : (s.respond r).qrSize = s.qrSize := rfl
@[simp] theorem respond_layoutMask (r : HostResp) : (s.respond r).layoutMask = s.layoutMask := rfl
@[simp] theorem respond_layoutTest (r : HostResp) : (s.respond r).layoutTest = s.layoutTest := rfl
@[simp] theorem respond_chosen (r : HostResp) : (s.respond r).chosen = s.chosen := rfl
@[simp] theorem respond_chosenValid (r : HostResp) : (s.respond r).chosenValid = s.chosenValid := rfl
@[simp] theorem respond_crc (r : HostResp) : (s.respond r).crc = s.crc := rfl
@[simp] theorem respond_segCount (r : HostResp) : (s.respond r).segCount = s.segCount := rfl
@[simp] theorem respond_segs (r : HostResp) : (s.respond r).segs = s.segs := rfl
@[simp] theorem respond_penalty (r : HostResp) : (s.respond r).penalty = s.penalty := rfl
@[simp] theorem respond_penR1 (r : HostResp) : (s.respond r).penR1 = s.penR1 := rfl
@[simp] theorem respond_penR2 (r : HostResp) : (s.respond r).penR2 = s.penR2 := rfl
@[simp] theorem respond_penR3 (r : HostResp) : (s.respond r).penR3 = s.penR3 := rfl
@[simp] theorem respond_penR4 (r : HostResp) : (s.respond r).penR4 = s.penR4 := rfl
@[simp] theorem respond_mscore (r : HostResp) : (s.respond r).mscore = s.mscore := rfl
@[simp] theorem respond_mem (r : HostResp) : (s.respond r).mem = s.mem := rfl
@[simp] theorem respond_matrix (r : HostResp) : (s.respond r).matrix = s.matrix := rfl
@[simp] theorem respond_prGen (r : HostResp) : (s.respond r).prGen = s.prGen := rfl
@[simp] theorem respond_bbGen (r : HostResp) : (s.respond r).bbGen = s.bbGen := rfl
@[simp] theorem respond_cwGen (r : HostResp) : (s.respond r).cwGen = s.cwGen := rfl
@[simp] theorem respond_draws (r : HostResp) : (s.respond r).draws = s.draws := rfl
@[simp] theorem respond_turns (r : HostResp) : (s.respond r).turns = s.turns := rfl
@[simp] theorem respond_resp (r : HostResp) : (s.respond r).resp = r := rfl

/-! ### drawn -/

@[simp] theorem drawn_irqEn : s.drawn.irqEn = s.irqEn := rfl
@[simp] theorem drawn_busy : s.drawn.busy = s.busy := rfl
@[simp] theorem drawn_done : s.drawn.done = s.done := rfl
@[simp] theorem drawn_err : s.drawn.err = s.err := rfl
@[simp] theorem drawn_ovr : s.drawn.ovr = s.ovr := rfl
@[simp] theorem drawn_errCode : s.drawn.errCode = s.errCode := rfl
@[simp] theorem drawn_errOpcode : s.drawn.errOpcode = s.errOpcode := rfl
@[simp] theorem drawn_latch : s.drawn.latch = s.latch := rfl
@[simp] theorem drawn_arg0 : s.drawn.arg0 = s.arg0 := rfl
@[simp] theorem drawn_arg1 : s.drawn.arg1 = s.arg1 := rfl
@[simp] theorem drawn_res0 : s.drawn.res0 = s.res0 := rfl
@[simp] theorem drawn_res1 : s.drawn.res1 = s.res1 := rfl
@[simp] theorem drawn_paLen : s.drawn.paLen = s.paLen := rfl
@[simp] theorem drawn_pbLen : s.drawn.pbLen = s.pbLen := rfl
@[simp] theorem drawn_prLen : s.drawn.prLen = s.prLen := rfl
@[simp] theorem drawn_bbLen : s.drawn.bbLen = s.bbLen := rfl
@[simp] theorem drawn_cfg : s.drawn.cfg = s.cfg := rfl
@[simp] theorem drawn_qrState : s.drawn.qrState = s.qrState := rfl
@[simp] theorem drawn_qrVer : s.drawn.qrVer = s.qrVer := rfl
@[simp] theorem drawn_cwValid : s.drawn.cwValid = s.cwValid := rfl
@[simp] theorem drawn_cwTotal : s.drawn.cwTotal = s.cwTotal := rfl
@[simp] theorem drawn_cwData : s.drawn.cwData = s.cwData := rfl
@[simp] theorem drawn_qrSize : s.drawn.qrSize = s.qrSize := rfl
@[simp] theorem drawn_layoutMask : s.drawn.layoutMask = s.layoutMask := rfl
@[simp] theorem drawn_layoutTest : s.drawn.layoutTest = s.layoutTest := rfl
@[simp] theorem drawn_chosen : s.drawn.chosen = s.chosen := rfl
@[simp] theorem drawn_chosenValid : s.drawn.chosenValid = s.chosenValid := rfl
@[simp] theorem drawn_crc : s.drawn.crc = s.crc := rfl
@[simp] theorem drawn_segCount : s.drawn.segCount = s.segCount := rfl
@[simp] theorem drawn_segs : s.drawn.segs = s.segs := rfl
@[simp] theorem drawn_penalty : s.drawn.penalty = s.penalty := rfl
@[simp] theorem drawn_penR1 : s.drawn.penR1 = s.penR1 := rfl
@[simp] theorem drawn_penR2 : s.drawn.penR2 = s.penR2 := rfl
@[simp] theorem drawn_penR3 : s.drawn.penR3 = s.penR3 := rfl
@[simp] theorem drawn_penR4 : s.drawn.penR4 = s.penR4 := rfl
@[simp] theorem drawn_mscore : s.drawn.mscore = s.mscore := rfl
@[simp] theorem drawn_mem : s.drawn.mem = s.mem := rfl
@[simp] theorem drawn_matrix : s.drawn.matrix = s.matrix := rfl
@[simp] theorem drawn_prGen : s.drawn.prGen = s.prGen := rfl
@[simp] theorem drawn_bbGen : s.drawn.bbGen = s.bbGen := rfl
@[simp] theorem drawn_cwGen : s.drawn.cwGen = s.cwGen := rfl
@[simp] theorem drawn_draws : s.drawn.draws = s.draws + 1 := rfl
@[simp] theorem drawn_turns : s.drawn.turns = s.turns := rfl
@[simp] theorem drawn_resp : s.drawn.resp = s.resp := rfl

/-! ### writeRam -/

@[simp] theorem writeRam_irqEn (a : Nat) (l : List Byte) : (s.writeRam a l).irqEn = s.irqEn := rfl
@[simp] theorem writeRam_busy (a : Nat) (l : List Byte) : (s.writeRam a l).busy = s.busy := rfl
@[simp] theorem writeRam_done (a : Nat) (l : List Byte) : (s.writeRam a l).done = s.done := rfl
@[simp] theorem writeRam_err (a : Nat) (l : List Byte) : (s.writeRam a l).err = s.err := rfl
@[simp] theorem writeRam_ovr (a : Nat) (l : List Byte) : (s.writeRam a l).ovr = s.ovr := rfl
@[simp] theorem writeRam_errCode (a : Nat) (l : List Byte) : (s.writeRam a l).errCode = s.errCode := rfl
@[simp] theorem writeRam_errOpcode (a : Nat) (l : List Byte) : (s.writeRam a l).errOpcode = s.errOpcode := rfl
@[simp] theorem writeRam_latch (a : Nat) (l : List Byte) : (s.writeRam a l).latch = s.latch := rfl
@[simp] theorem writeRam_arg0 (a : Nat) (l : List Byte) : (s.writeRam a l).arg0 = s.arg0 := rfl
@[simp] theorem writeRam_arg1 (a : Nat) (l : List Byte) : (s.writeRam a l).arg1 = s.arg1 := rfl
@[simp] theorem writeRam_res0 (a : Nat) (l : List Byte) : (s.writeRam a l).res0 = s.res0 := rfl
@[simp] theorem writeRam_res1 (a : Nat) (l : List Byte) : (s.writeRam a l).res1 = s.res1 := rfl
@[simp] theorem writeRam_paLen (a : Nat) (l : List Byte) : (s.writeRam a l).paLen = s.paLen := rfl
@[simp] theorem writeRam_pbLen (a : Nat) (l : List Byte) : (s.writeRam a l).pbLen = s.pbLen := rfl
@[simp] theorem writeRam_prLen (a : Nat) (l : List Byte) : (s.writeRam a l).prLen = s.prLen := rfl
@[simp] theorem writeRam_bbLen (a : Nat) (l : List Byte) : (s.writeRam a l).bbLen = s.bbLen := rfl
@[simp] theorem writeRam_cfg (a : Nat) (l : List Byte) : (s.writeRam a l).cfg = s.cfg := rfl
@[simp] theorem writeRam_qrState (a : Nat) (l : List Byte) : (s.writeRam a l).qrState = s.qrState := rfl
@[simp] theorem writeRam_qrVer (a : Nat) (l : List Byte) : (s.writeRam a l).qrVer = s.qrVer := rfl
@[simp] theorem writeRam_cwValid (a : Nat) (l : List Byte) : (s.writeRam a l).cwValid = s.cwValid := rfl
@[simp] theorem writeRam_cwTotal (a : Nat) (l : List Byte) : (s.writeRam a l).cwTotal = s.cwTotal := rfl
@[simp] theorem writeRam_cwData (a : Nat) (l : List Byte) : (s.writeRam a l).cwData = s.cwData := rfl
@[simp] theorem writeRam_qrSize (a : Nat) (l : List Byte) : (s.writeRam a l).qrSize = s.qrSize := rfl
@[simp] theorem writeRam_layoutMask (a : Nat) (l : List Byte) : (s.writeRam a l).layoutMask = s.layoutMask := rfl
@[simp] theorem writeRam_layoutTest (a : Nat) (l : List Byte) : (s.writeRam a l).layoutTest = s.layoutTest := rfl
@[simp] theorem writeRam_chosen (a : Nat) (l : List Byte) : (s.writeRam a l).chosen = s.chosen := rfl
@[simp] theorem writeRam_chosenValid (a : Nat) (l : List Byte) : (s.writeRam a l).chosenValid = s.chosenValid := rfl
@[simp] theorem writeRam_crc (a : Nat) (l : List Byte) : (s.writeRam a l).crc = s.crc := rfl
@[simp] theorem writeRam_segCount (a : Nat) (l : List Byte) : (s.writeRam a l).segCount = s.segCount := rfl
@[simp] theorem writeRam_segs (a : Nat) (l : List Byte) : (s.writeRam a l).segs = s.segs := rfl
@[simp] theorem writeRam_penalty (a : Nat) (l : List Byte) : (s.writeRam a l).penalty = s.penalty := rfl
@[simp] theorem writeRam_penR1 (a : Nat) (l : List Byte) : (s.writeRam a l).penR1 = s.penR1 := rfl
@[simp] theorem writeRam_penR2 (a : Nat) (l : List Byte) : (s.writeRam a l).penR2 = s.penR2 := rfl
@[simp] theorem writeRam_penR3 (a : Nat) (l : List Byte) : (s.writeRam a l).penR3 = s.penR3 := rfl
@[simp] theorem writeRam_penR4 (a : Nat) (l : List Byte) : (s.writeRam a l).penR4 = s.penR4 := rfl
@[simp] theorem writeRam_mscore (a : Nat) (l : List Byte) : (s.writeRam a l).mscore = s.mscore := rfl
@[simp] theorem writeRam_mem (a : Nat) (l : List Byte) : (s.writeRam a l).mem = s.mem.writeAll a l := rfl
@[simp] theorem writeRam_matrix (a : Nat) (l : List Byte) : (s.writeRam a l).matrix = s.matrix := rfl
@[simp] theorem writeRam_prGen (a : Nat) (l : List Byte) : (s.writeRam a l).prGen = s.prGen := rfl
@[simp] theorem writeRam_bbGen (a : Nat) (l : List Byte) : (s.writeRam a l).bbGen = s.bbGen := rfl
@[simp] theorem writeRam_cwGen (a : Nat) (l : List Byte) : (s.writeRam a l).cwGen = s.cwGen := rfl
@[simp] theorem writeRam_draws (a : Nat) (l : List Byte) : (s.writeRam a l).draws = s.draws := rfl
@[simp] theorem writeRam_turns (a : Nat) (l : List Byte) : (s.writeRam a l).turns = s.turns := rfl
@[simp] theorem writeRam_resp (a : Nat) (l : List Byte) : (s.writeRam a l).resp = s.resp := rfl

/-! ### setArg0 -/

@[simp] theorem setArg0_irqEn (v : Word) : (s.setArg0 v).irqEn = s.irqEn := rfl
@[simp] theorem setArg0_busy (v : Word) : (s.setArg0 v).busy = s.busy := rfl
@[simp] theorem setArg0_done (v : Word) : (s.setArg0 v).done = s.done := rfl
@[simp] theorem setArg0_err (v : Word) : (s.setArg0 v).err = s.err := rfl
@[simp] theorem setArg0_ovr (v : Word) : (s.setArg0 v).ovr = s.ovr := rfl
@[simp] theorem setArg0_errCode (v : Word) : (s.setArg0 v).errCode = s.errCode := rfl
@[simp] theorem setArg0_errOpcode (v : Word) : (s.setArg0 v).errOpcode = s.errOpcode := rfl
@[simp] theorem setArg0_latch (v : Word) : (s.setArg0 v).latch = s.latch := rfl
@[simp] theorem setArg0_arg0 (v : Word) : (s.setArg0 v).arg0 = v := rfl
@[simp] theorem setArg0_arg1 (v : Word) : (s.setArg0 v).arg1 = s.arg1 := rfl
@[simp] theorem setArg0_res0 (v : Word) : (s.setArg0 v).res0 = s.res0 := rfl
@[simp] theorem setArg0_res1 (v : Word) : (s.setArg0 v).res1 = s.res1 := rfl
@[simp] theorem setArg0_paLen (v : Word) : (s.setArg0 v).paLen = s.paLen := rfl
@[simp] theorem setArg0_pbLen (v : Word) : (s.setArg0 v).pbLen = s.pbLen := rfl
@[simp] theorem setArg0_prLen (v : Word) : (s.setArg0 v).prLen = s.prLen := rfl
@[simp] theorem setArg0_bbLen (v : Word) : (s.setArg0 v).bbLen = s.bbLen := rfl
@[simp] theorem setArg0_cfg (v : Word) : (s.setArg0 v).cfg = s.cfg := rfl
@[simp] theorem setArg0_qrState (v : Word) : (s.setArg0 v).qrState = s.qrState := rfl
@[simp] theorem setArg0_qrVer (v : Word) : (s.setArg0 v).qrVer = s.qrVer := rfl
@[simp] theorem setArg0_cwValid (v : Word) : (s.setArg0 v).cwValid = s.cwValid := rfl
@[simp] theorem setArg0_cwTotal (v : Word) : (s.setArg0 v).cwTotal = s.cwTotal := rfl
@[simp] theorem setArg0_cwData (v : Word) : (s.setArg0 v).cwData = s.cwData := rfl
@[simp] theorem setArg0_qrSize (v : Word) : (s.setArg0 v).qrSize = s.qrSize := rfl
@[simp] theorem setArg0_layoutMask (v : Word) : (s.setArg0 v).layoutMask = s.layoutMask := rfl
@[simp] theorem setArg0_layoutTest (v : Word) : (s.setArg0 v).layoutTest = s.layoutTest := rfl
@[simp] theorem setArg0_chosen (v : Word) : (s.setArg0 v).chosen = s.chosen := rfl
@[simp] theorem setArg0_chosenValid (v : Word) : (s.setArg0 v).chosenValid = s.chosenValid := rfl
@[simp] theorem setArg0_crc (v : Word) : (s.setArg0 v).crc = s.crc := rfl
@[simp] theorem setArg0_segCount (v : Word) : (s.setArg0 v).segCount = s.segCount := rfl
@[simp] theorem setArg0_segs (v : Word) : (s.setArg0 v).segs = s.segs := rfl
@[simp] theorem setArg0_penalty (v : Word) : (s.setArg0 v).penalty = s.penalty := rfl
@[simp] theorem setArg0_penR1 (v : Word) : (s.setArg0 v).penR1 = s.penR1 := rfl
@[simp] theorem setArg0_penR2 (v : Word) : (s.setArg0 v).penR2 = s.penR2 := rfl
@[simp] theorem setArg0_penR3 (v : Word) : (s.setArg0 v).penR3 = s.penR3 := rfl
@[simp] theorem setArg0_penR4 (v : Word) : (s.setArg0 v).penR4 = s.penR4 := rfl
@[simp] theorem setArg0_mscore (v : Word) : (s.setArg0 v).mscore = s.mscore := rfl
@[simp] theorem setArg0_mem (v : Word) : (s.setArg0 v).mem = s.mem := rfl
@[simp] theorem setArg0_matrix (v : Word) : (s.setArg0 v).matrix = s.matrix := rfl
@[simp] theorem setArg0_prGen (v : Word) : (s.setArg0 v).prGen = s.prGen := rfl
@[simp] theorem setArg0_bbGen (v : Word) : (s.setArg0 v).bbGen = s.bbGen := rfl
@[simp] theorem setArg0_cwGen (v : Word) : (s.setArg0 v).cwGen = s.cwGen := rfl
@[simp] theorem setArg0_draws (v : Word) : (s.setArg0 v).draws = s.draws := rfl
@[simp] theorem setArg0_turns (v : Word) : (s.setArg0 v).turns = s.turns := rfl
@[simp] theorem setArg0_resp (v : Word) : (s.setArg0 v).resp = s.resp := rfl

/-! ### setArg1 -/

@[simp] theorem setArg1_irqEn (v : Word) : (s.setArg1 v).irqEn = s.irqEn := rfl
@[simp] theorem setArg1_busy (v : Word) : (s.setArg1 v).busy = s.busy := rfl
@[simp] theorem setArg1_done (v : Word) : (s.setArg1 v).done = s.done := rfl
@[simp] theorem setArg1_err (v : Word) : (s.setArg1 v).err = s.err := rfl
@[simp] theorem setArg1_ovr (v : Word) : (s.setArg1 v).ovr = s.ovr := rfl
@[simp] theorem setArg1_errCode (v : Word) : (s.setArg1 v).errCode = s.errCode := rfl
@[simp] theorem setArg1_errOpcode (v : Word) : (s.setArg1 v).errOpcode = s.errOpcode := rfl
@[simp] theorem setArg1_latch (v : Word) : (s.setArg1 v).latch = s.latch := rfl
@[simp] theorem setArg1_arg0 (v : Word) : (s.setArg1 v).arg0 = s.arg0 := rfl
@[simp] theorem setArg1_arg1 (v : Word) : (s.setArg1 v).arg1 = v := rfl
@[simp] theorem setArg1_res0 (v : Word) : (s.setArg1 v).res0 = s.res0 := rfl
@[simp] theorem setArg1_res1 (v : Word) : (s.setArg1 v).res1 = s.res1 := rfl
@[simp] theorem setArg1_paLen (v : Word) : (s.setArg1 v).paLen = s.paLen := rfl
@[simp] theorem setArg1_pbLen (v : Word) : (s.setArg1 v).pbLen = s.pbLen := rfl
@[simp] theorem setArg1_prLen (v : Word) : (s.setArg1 v).prLen = s.prLen := rfl
@[simp] theorem setArg1_bbLen (v : Word) : (s.setArg1 v).bbLen = s.bbLen := rfl
@[simp] theorem setArg1_cfg (v : Word) : (s.setArg1 v).cfg = s.cfg := rfl
@[simp] theorem setArg1_qrState (v : Word) : (s.setArg1 v).qrState = s.qrState := rfl
@[simp] theorem setArg1_qrVer (v : Word) : (s.setArg1 v).qrVer = s.qrVer := rfl
@[simp] theorem setArg1_cwValid (v : Word) : (s.setArg1 v).cwValid = s.cwValid := rfl
@[simp] theorem setArg1_cwTotal (v : Word) : (s.setArg1 v).cwTotal = s.cwTotal := rfl
@[simp] theorem setArg1_cwData (v : Word) : (s.setArg1 v).cwData = s.cwData := rfl
@[simp] theorem setArg1_qrSize (v : Word) : (s.setArg1 v).qrSize = s.qrSize := rfl
@[simp] theorem setArg1_layoutMask (v : Word) : (s.setArg1 v).layoutMask = s.layoutMask := rfl
@[simp] theorem setArg1_layoutTest (v : Word) : (s.setArg1 v).layoutTest = s.layoutTest := rfl
@[simp] theorem setArg1_chosen (v : Word) : (s.setArg1 v).chosen = s.chosen := rfl
@[simp] theorem setArg1_chosenValid (v : Word) : (s.setArg1 v).chosenValid = s.chosenValid := rfl
@[simp] theorem setArg1_crc (v : Word) : (s.setArg1 v).crc = s.crc := rfl
@[simp] theorem setArg1_segCount (v : Word) : (s.setArg1 v).segCount = s.segCount := rfl
@[simp] theorem setArg1_segs (v : Word) : (s.setArg1 v).segs = s.segs := rfl
@[simp] theorem setArg1_penalty (v : Word) : (s.setArg1 v).penalty = s.penalty := rfl
@[simp] theorem setArg1_penR1 (v : Word) : (s.setArg1 v).penR1 = s.penR1 := rfl
@[simp] theorem setArg1_penR2 (v : Word) : (s.setArg1 v).penR2 = s.penR2 := rfl
@[simp] theorem setArg1_penR3 (v : Word) : (s.setArg1 v).penR3 = s.penR3 := rfl
@[simp] theorem setArg1_penR4 (v : Word) : (s.setArg1 v).penR4 = s.penR4 := rfl
@[simp] theorem setArg1_mscore (v : Word) : (s.setArg1 v).mscore = s.mscore := rfl
@[simp] theorem setArg1_mem (v : Word) : (s.setArg1 v).mem = s.mem := rfl
@[simp] theorem setArg1_matrix (v : Word) : (s.setArg1 v).matrix = s.matrix := rfl
@[simp] theorem setArg1_prGen (v : Word) : (s.setArg1 v).prGen = s.prGen := rfl
@[simp] theorem setArg1_bbGen (v : Word) : (s.setArg1 v).bbGen = s.bbGen := rfl
@[simp] theorem setArg1_cwGen (v : Word) : (s.setArg1 v).cwGen = s.cwGen := rfl
@[simp] theorem setArg1_draws (v : Word) : (s.setArg1 v).draws = s.draws := rfl
@[simp] theorem setArg1_turns (v : Word) : (s.setArg1 v).turns = s.turns := rfl
@[simp] theorem setArg1_resp (v : Word) : (s.setArg1 v).resp = s.resp := rfl

/-! ### setPaLen -/

@[simp] theorem setPaLen_irqEn (v : Word) : (s.setPaLen v).irqEn = s.irqEn := rfl
@[simp] theorem setPaLen_busy (v : Word) : (s.setPaLen v).busy = s.busy := rfl
@[simp] theorem setPaLen_done (v : Word) : (s.setPaLen v).done = s.done := rfl
@[simp] theorem setPaLen_err (v : Word) : (s.setPaLen v).err = s.err := rfl
@[simp] theorem setPaLen_ovr (v : Word) : (s.setPaLen v).ovr = s.ovr := rfl
@[simp] theorem setPaLen_errCode (v : Word) : (s.setPaLen v).errCode = s.errCode := rfl
@[simp] theorem setPaLen_errOpcode (v : Word) : (s.setPaLen v).errOpcode = s.errOpcode := rfl
@[simp] theorem setPaLen_latch (v : Word) : (s.setPaLen v).latch = s.latch := rfl
@[simp] theorem setPaLen_arg0 (v : Word) : (s.setPaLen v).arg0 = s.arg0 := rfl
@[simp] theorem setPaLen_arg1 (v : Word) : (s.setPaLen v).arg1 = s.arg1 := rfl
@[simp] theorem setPaLen_res0 (v : Word) : (s.setPaLen v).res0 = s.res0 := rfl
@[simp] theorem setPaLen_res1 (v : Word) : (s.setPaLen v).res1 = s.res1 := rfl
@[simp] theorem setPaLen_paLen (v : Word) : (s.setPaLen v).paLen = v.setWidth 9 := rfl
@[simp] theorem setPaLen_pbLen (v : Word) : (s.setPaLen v).pbLen = s.pbLen := rfl
@[simp] theorem setPaLen_prLen (v : Word) : (s.setPaLen v).prLen = s.prLen := rfl
@[simp] theorem setPaLen_bbLen (v : Word) : (s.setPaLen v).bbLen = s.bbLen := rfl
@[simp] theorem setPaLen_cfg (v : Word) : (s.setPaLen v).cfg = s.cfg := rfl
@[simp] theorem setPaLen_qrState (v : Word) : (s.setPaLen v).qrState = s.qrState := rfl
@[simp] theorem setPaLen_qrVer (v : Word) : (s.setPaLen v).qrVer = s.qrVer := rfl
@[simp] theorem setPaLen_cwValid (v : Word) : (s.setPaLen v).cwValid = s.cwValid := rfl
@[simp] theorem setPaLen_cwTotal (v : Word) : (s.setPaLen v).cwTotal = s.cwTotal := rfl
@[simp] theorem setPaLen_cwData (v : Word) : (s.setPaLen v).cwData = s.cwData := rfl
@[simp] theorem setPaLen_qrSize (v : Word) : (s.setPaLen v).qrSize = s.qrSize := rfl
@[simp] theorem setPaLen_layoutMask (v : Word) : (s.setPaLen v).layoutMask = s.layoutMask := rfl
@[simp] theorem setPaLen_layoutTest (v : Word) : (s.setPaLen v).layoutTest = s.layoutTest := rfl
@[simp] theorem setPaLen_chosen (v : Word) : (s.setPaLen v).chosen = s.chosen := rfl
@[simp] theorem setPaLen_chosenValid (v : Word) : (s.setPaLen v).chosenValid = s.chosenValid := rfl
@[simp] theorem setPaLen_crc (v : Word) : (s.setPaLen v).crc = s.crc := rfl
@[simp] theorem setPaLen_segCount (v : Word) : (s.setPaLen v).segCount = s.segCount := rfl
@[simp] theorem setPaLen_segs (v : Word) : (s.setPaLen v).segs = s.segs := rfl
@[simp] theorem setPaLen_penalty (v : Word) : (s.setPaLen v).penalty = s.penalty := rfl
@[simp] theorem setPaLen_penR1 (v : Word) : (s.setPaLen v).penR1 = s.penR1 := rfl
@[simp] theorem setPaLen_penR2 (v : Word) : (s.setPaLen v).penR2 = s.penR2 := rfl
@[simp] theorem setPaLen_penR3 (v : Word) : (s.setPaLen v).penR3 = s.penR3 := rfl
@[simp] theorem setPaLen_penR4 (v : Word) : (s.setPaLen v).penR4 = s.penR4 := rfl
@[simp] theorem setPaLen_mscore (v : Word) : (s.setPaLen v).mscore = s.mscore := rfl
@[simp] theorem setPaLen_mem (v : Word) : (s.setPaLen v).mem = s.mem := rfl
@[simp] theorem setPaLen_matrix (v : Word) : (s.setPaLen v).matrix = s.matrix := rfl
@[simp] theorem setPaLen_prGen (v : Word) : (s.setPaLen v).prGen = s.prGen := rfl
@[simp] theorem setPaLen_bbGen (v : Word) : (s.setPaLen v).bbGen = s.bbGen := rfl
@[simp] theorem setPaLen_cwGen (v : Word) : (s.setPaLen v).cwGen = s.cwGen := rfl
@[simp] theorem setPaLen_draws (v : Word) : (s.setPaLen v).draws = s.draws := rfl
@[simp] theorem setPaLen_turns (v : Word) : (s.setPaLen v).turns = s.turns := rfl
@[simp] theorem setPaLen_resp (v : Word) : (s.setPaLen v).resp = s.resp := rfl

/-! ### setPbLen -/

@[simp] theorem setPbLen_irqEn (v : Word) : (s.setPbLen v).irqEn = s.irqEn := rfl
@[simp] theorem setPbLen_busy (v : Word) : (s.setPbLen v).busy = s.busy := rfl
@[simp] theorem setPbLen_done (v : Word) : (s.setPbLen v).done = s.done := rfl
@[simp] theorem setPbLen_err (v : Word) : (s.setPbLen v).err = s.err := rfl
@[simp] theorem setPbLen_ovr (v : Word) : (s.setPbLen v).ovr = s.ovr := rfl
@[simp] theorem setPbLen_errCode (v : Word) : (s.setPbLen v).errCode = s.errCode := rfl
@[simp] theorem setPbLen_errOpcode (v : Word) : (s.setPbLen v).errOpcode = s.errOpcode := rfl
@[simp] theorem setPbLen_latch (v : Word) : (s.setPbLen v).latch = s.latch := rfl
@[simp] theorem setPbLen_arg0 (v : Word) : (s.setPbLen v).arg0 = s.arg0 := rfl
@[simp] theorem setPbLen_arg1 (v : Word) : (s.setPbLen v).arg1 = s.arg1 := rfl
@[simp] theorem setPbLen_res0 (v : Word) : (s.setPbLen v).res0 = s.res0 := rfl
@[simp] theorem setPbLen_res1 (v : Word) : (s.setPbLen v).res1 = s.res1 := rfl
@[simp] theorem setPbLen_paLen (v : Word) : (s.setPbLen v).paLen = s.paLen := rfl
@[simp] theorem setPbLen_pbLen (v : Word) : (s.setPbLen v).pbLen = v.setWidth 9 := rfl
@[simp] theorem setPbLen_prLen (v : Word) : (s.setPbLen v).prLen = s.prLen := rfl
@[simp] theorem setPbLen_bbLen (v : Word) : (s.setPbLen v).bbLen = s.bbLen := rfl
@[simp] theorem setPbLen_cfg (v : Word) : (s.setPbLen v).cfg = s.cfg := rfl
@[simp] theorem setPbLen_qrState (v : Word) : (s.setPbLen v).qrState = s.qrState := rfl
@[simp] theorem setPbLen_qrVer (v : Word) : (s.setPbLen v).qrVer = s.qrVer := rfl
@[simp] theorem setPbLen_cwValid (v : Word) : (s.setPbLen v).cwValid = s.cwValid := rfl
@[simp] theorem setPbLen_cwTotal (v : Word) : (s.setPbLen v).cwTotal = s.cwTotal := rfl
@[simp] theorem setPbLen_cwData (v : Word) : (s.setPbLen v).cwData = s.cwData := rfl
@[simp] theorem setPbLen_qrSize (v : Word) : (s.setPbLen v).qrSize = s.qrSize := rfl
@[simp] theorem setPbLen_layoutMask (v : Word) : (s.setPbLen v).layoutMask = s.layoutMask := rfl
@[simp] theorem setPbLen_layoutTest (v : Word) : (s.setPbLen v).layoutTest = s.layoutTest := rfl
@[simp] theorem setPbLen_chosen (v : Word) : (s.setPbLen v).chosen = s.chosen := rfl
@[simp] theorem setPbLen_chosenValid (v : Word) : (s.setPbLen v).chosenValid = s.chosenValid := rfl
@[simp] theorem setPbLen_crc (v : Word) : (s.setPbLen v).crc = s.crc := rfl
@[simp] theorem setPbLen_segCount (v : Word) : (s.setPbLen v).segCount = s.segCount := rfl
@[simp] theorem setPbLen_segs (v : Word) : (s.setPbLen v).segs = s.segs := rfl
@[simp] theorem setPbLen_penalty (v : Word) : (s.setPbLen v).penalty = s.penalty := rfl
@[simp] theorem setPbLen_penR1 (v : Word) : (s.setPbLen v).penR1 = s.penR1 := rfl
@[simp] theorem setPbLen_penR2 (v : Word) : (s.setPbLen v).penR2 = s.penR2 := rfl
@[simp] theorem setPbLen_penR3 (v : Word) : (s.setPbLen v).penR3 = s.penR3 := rfl
@[simp] theorem setPbLen_penR4 (v : Word) : (s.setPbLen v).penR4 = s.penR4 := rfl
@[simp] theorem setPbLen_mscore (v : Word) : (s.setPbLen v).mscore = s.mscore := rfl
@[simp] theorem setPbLen_mem (v : Word) : (s.setPbLen v).mem = s.mem := rfl
@[simp] theorem setPbLen_matrix (v : Word) : (s.setPbLen v).matrix = s.matrix := rfl
@[simp] theorem setPbLen_prGen (v : Word) : (s.setPbLen v).prGen = s.prGen := rfl
@[simp] theorem setPbLen_bbGen (v : Word) : (s.setPbLen v).bbGen = s.bbGen := rfl
@[simp] theorem setPbLen_cwGen (v : Word) : (s.setPbLen v).cwGen = s.cwGen := rfl
@[simp] theorem setPbLen_draws (v : Word) : (s.setPbLen v).draws = s.draws := rfl
@[simp] theorem setPbLen_turns (v : Word) : (s.setPbLen v).turns = s.turns := rfl
@[simp] theorem setPbLen_resp (v : Word) : (s.setPbLen v).resp = s.resp := rfl

/-! ### setIrqEn -/

@[simp] theorem setIrqEn_irqEn (b : Bool) : (s.setIrqEn b).irqEn = b := rfl
@[simp] theorem setIrqEn_busy (b : Bool) : (s.setIrqEn b).busy = s.busy := rfl
@[simp] theorem setIrqEn_done (b : Bool) : (s.setIrqEn b).done = s.done := rfl
@[simp] theorem setIrqEn_err (b : Bool) : (s.setIrqEn b).err = s.err := rfl
@[simp] theorem setIrqEn_ovr (b : Bool) : (s.setIrqEn b).ovr = s.ovr := rfl
@[simp] theorem setIrqEn_errCode (b : Bool) : (s.setIrqEn b).errCode = s.errCode := rfl
@[simp] theorem setIrqEn_errOpcode (b : Bool) : (s.setIrqEn b).errOpcode = s.errOpcode := rfl
@[simp] theorem setIrqEn_latch (b : Bool) : (s.setIrqEn b).latch = s.latch := rfl
@[simp] theorem setIrqEn_arg0 (b : Bool) : (s.setIrqEn b).arg0 = s.arg0 := rfl
@[simp] theorem setIrqEn_arg1 (b : Bool) : (s.setIrqEn b).arg1 = s.arg1 := rfl
@[simp] theorem setIrqEn_res0 (b : Bool) : (s.setIrqEn b).res0 = s.res0 := rfl
@[simp] theorem setIrqEn_res1 (b : Bool) : (s.setIrqEn b).res1 = s.res1 := rfl
@[simp] theorem setIrqEn_paLen (b : Bool) : (s.setIrqEn b).paLen = s.paLen := rfl
@[simp] theorem setIrqEn_pbLen (b : Bool) : (s.setIrqEn b).pbLen = s.pbLen := rfl
@[simp] theorem setIrqEn_prLen (b : Bool) : (s.setIrqEn b).prLen = s.prLen := rfl
@[simp] theorem setIrqEn_bbLen (b : Bool) : (s.setIrqEn b).bbLen = s.bbLen := rfl
@[simp] theorem setIrqEn_cfg (b : Bool) : (s.setIrqEn b).cfg = s.cfg := rfl
@[simp] theorem setIrqEn_qrState (b : Bool) : (s.setIrqEn b).qrState = s.qrState := rfl
@[simp] theorem setIrqEn_qrVer (b : Bool) : (s.setIrqEn b).qrVer = s.qrVer := rfl
@[simp] theorem setIrqEn_cwValid (b : Bool) : (s.setIrqEn b).cwValid = s.cwValid := rfl
@[simp] theorem setIrqEn_cwTotal (b : Bool) : (s.setIrqEn b).cwTotal = s.cwTotal := rfl
@[simp] theorem setIrqEn_cwData (b : Bool) : (s.setIrqEn b).cwData = s.cwData := rfl
@[simp] theorem setIrqEn_qrSize (b : Bool) : (s.setIrqEn b).qrSize = s.qrSize := rfl
@[simp] theorem setIrqEn_layoutMask (b : Bool) : (s.setIrqEn b).layoutMask = s.layoutMask := rfl
@[simp] theorem setIrqEn_layoutTest (b : Bool) : (s.setIrqEn b).layoutTest = s.layoutTest := rfl
@[simp] theorem setIrqEn_chosen (b : Bool) : (s.setIrqEn b).chosen = s.chosen := rfl
@[simp] theorem setIrqEn_chosenValid (b : Bool) : (s.setIrqEn b).chosenValid = s.chosenValid := rfl
@[simp] theorem setIrqEn_crc (b : Bool) : (s.setIrqEn b).crc = s.crc := rfl
@[simp] theorem setIrqEn_segCount (b : Bool) : (s.setIrqEn b).segCount = s.segCount := rfl
@[simp] theorem setIrqEn_segs (b : Bool) : (s.setIrqEn b).segs = s.segs := rfl
@[simp] theorem setIrqEn_penalty (b : Bool) : (s.setIrqEn b).penalty = s.penalty := rfl
@[simp] theorem setIrqEn_penR1 (b : Bool) : (s.setIrqEn b).penR1 = s.penR1 := rfl
@[simp] theorem setIrqEn_penR2 (b : Bool) : (s.setIrqEn b).penR2 = s.penR2 := rfl
@[simp] theorem setIrqEn_penR3 (b : Bool) : (s.setIrqEn b).penR3 = s.penR3 := rfl
@[simp] theorem setIrqEn_penR4 (b : Bool) : (s.setIrqEn b).penR4 = s.penR4 := rfl
@[simp] theorem setIrqEn_mscore (b : Bool) : (s.setIrqEn b).mscore = s.mscore := rfl
@[simp] theorem setIrqEn_mem (b : Bool) : (s.setIrqEn b).mem = s.mem := rfl
@[simp] theorem setIrqEn_matrix (b : Bool) : (s.setIrqEn b).matrix = s.matrix := rfl
@[simp] theorem setIrqEn_prGen (b : Bool) : (s.setIrqEn b).prGen = s.prGen := rfl
@[simp] theorem setIrqEn_bbGen (b : Bool) : (s.setIrqEn b).bbGen = s.bbGen := rfl
@[simp] theorem setIrqEn_cwGen (b : Bool) : (s.setIrqEn b).cwGen = s.cwGen := rfl
@[simp] theorem setIrqEn_draws (b : Bool) : (s.setIrqEn b).draws = s.draws := rfl
@[simp] theorem setIrqEn_turns (b : Bool) : (s.setIrqEn b).turns = s.turns := rfl
@[simp] theorem setIrqEn_resp (b : Bool) : (s.setIrqEn b).resp = s.resp := rfl

/-! ### overrun -/

@[simp] theorem overrun_irqEn : s.overrun.irqEn = s.irqEn := rfl
@[simp] theorem overrun_busy : s.overrun.busy = s.busy := rfl
@[simp] theorem overrun_done : s.overrun.done = s.done := rfl
@[simp] theorem overrun_err : s.overrun.err = s.err := rfl
@[simp] theorem overrun_ovr : s.overrun.ovr = true := rfl
@[simp] theorem overrun_errCode : s.overrun.errCode = s.errCode := rfl
@[simp] theorem overrun_errOpcode : s.overrun.errOpcode = s.errOpcode := rfl
@[simp] theorem overrun_latch : s.overrun.latch = s.latch := rfl
@[simp] theorem overrun_arg0 : s.overrun.arg0 = s.arg0 := rfl
@[simp] theorem overrun_arg1 : s.overrun.arg1 = s.arg1 := rfl
@[simp] theorem overrun_res0 : s.overrun.res0 = s.res0 := rfl
@[simp] theorem overrun_res1 : s.overrun.res1 = s.res1 := rfl
@[simp] theorem overrun_paLen : s.overrun.paLen = s.paLen := rfl
@[simp] theorem overrun_pbLen : s.overrun.pbLen = s.pbLen := rfl
@[simp] theorem overrun_prLen : s.overrun.prLen = s.prLen := rfl
@[simp] theorem overrun_bbLen : s.overrun.bbLen = s.bbLen := rfl
@[simp] theorem overrun_cfg : s.overrun.cfg = s.cfg := rfl
@[simp] theorem overrun_qrState : s.overrun.qrState = s.qrState := rfl
@[simp] theorem overrun_qrVer : s.overrun.qrVer = s.qrVer := rfl
@[simp] theorem overrun_cwValid : s.overrun.cwValid = s.cwValid := rfl
@[simp] theorem overrun_cwTotal : s.overrun.cwTotal = s.cwTotal := rfl
@[simp] theorem overrun_cwData : s.overrun.cwData = s.cwData := rfl
@[simp] theorem overrun_qrSize : s.overrun.qrSize = s.qrSize := rfl
@[simp] theorem overrun_layoutMask : s.overrun.layoutMask = s.layoutMask := rfl
@[simp] theorem overrun_layoutTest : s.overrun.layoutTest = s.layoutTest := rfl
@[simp] theorem overrun_chosen : s.overrun.chosen = s.chosen := rfl
@[simp] theorem overrun_chosenValid : s.overrun.chosenValid = s.chosenValid := rfl
@[simp] theorem overrun_crc : s.overrun.crc = s.crc := rfl
@[simp] theorem overrun_segCount : s.overrun.segCount = s.segCount := rfl
@[simp] theorem overrun_segs : s.overrun.segs = s.segs := rfl
@[simp] theorem overrun_penalty : s.overrun.penalty = s.penalty := rfl
@[simp] theorem overrun_penR1 : s.overrun.penR1 = s.penR1 := rfl
@[simp] theorem overrun_penR2 : s.overrun.penR2 = s.penR2 := rfl
@[simp] theorem overrun_penR3 : s.overrun.penR3 = s.penR3 := rfl
@[simp] theorem overrun_penR4 : s.overrun.penR4 = s.penR4 := rfl
@[simp] theorem overrun_mscore : s.overrun.mscore = s.mscore := rfl
@[simp] theorem overrun_mem : s.overrun.mem = s.mem := rfl
@[simp] theorem overrun_matrix : s.overrun.matrix = s.matrix := rfl
@[simp] theorem overrun_prGen : s.overrun.prGen = s.prGen := rfl
@[simp] theorem overrun_bbGen : s.overrun.bbGen = s.bbGen := rfl
@[simp] theorem overrun_cwGen : s.overrun.cwGen = s.cwGen := rfl
@[simp] theorem overrun_draws : s.overrun.draws = s.draws := rfl
@[simp] theorem overrun_turns : s.overrun.turns = s.turns := rfl
@[simp] theorem overrun_resp : s.overrun.resp = s.resp := rfl

/-! ### clearStatus -/

@[simp] theorem clearStatus_irqEn (v : Word) : (s.clearStatus v).irqEn = s.irqEn := rfl
@[simp] theorem clearStatus_busy (v : Word) : (s.clearStatus v).busy = s.busy := rfl
@[simp] theorem clearStatus_done (v : Word) : (s.clearStatus v).done = (s.done && !v.getLsbD 1) := rfl
@[simp] theorem clearStatus_err (v : Word) : (s.clearStatus v).err = (s.err && !v.getLsbD 2) := rfl
@[simp] theorem clearStatus_ovr (v : Word) : (s.clearStatus v).ovr = (s.ovr && !v.getLsbD 3) := rfl
@[simp] theorem clearStatus_errCode (v : Word) : (s.clearStatus v).errCode = s.errCode := rfl
@[simp] theorem clearStatus_errOpcode (v : Word) : (s.clearStatus v).errOpcode = s.errOpcode := rfl
@[simp] theorem clearStatus_latch (v : Word) : (s.clearStatus v).latch = s.latch := rfl
@[simp] theorem clearStatus_arg0 (v : Word) : (s.clearStatus v).arg0 = s.arg0 := rfl
@[simp] theorem clearStatus_arg1 (v : Word) : (s.clearStatus v).arg1 = s.arg1 := rfl
@[simp] theorem clearStatus_res0 (v : Word) : (s.clearStatus v).res0 = s.res0 := rfl
@[simp] theorem clearStatus_res1 (v : Word) : (s.clearStatus v).res1 = s.res1 := rfl
@[simp] theorem clearStatus_paLen (v : Word) : (s.clearStatus v).paLen = s.paLen := rfl
@[simp] theorem clearStatus_pbLen (v : Word) : (s.clearStatus v).pbLen = s.pbLen := rfl
@[simp] theorem clearStatus_prLen (v : Word) : (s.clearStatus v).prLen = s.prLen := rfl
@[simp] theorem clearStatus_bbLen (v : Word) : (s.clearStatus v).bbLen = s.bbLen := rfl
@[simp] theorem clearStatus_cfg (v : Word) : (s.clearStatus v).cfg = s.cfg := rfl
@[simp] theorem clearStatus_qrState (v : Word) : (s.clearStatus v).qrState = s.qrState := rfl
@[simp] theorem clearStatus_qrVer (v : Word) : (s.clearStatus v).qrVer = s.qrVer := rfl
@[simp] theorem clearStatus_cwValid (v : Word) : (s.clearStatus v).cwValid = s.cwValid := rfl
@[simp] theorem clearStatus_cwTotal (v : Word) : (s.clearStatus v).cwTotal = s.cwTotal := rfl
@[simp] theorem clearStatus_cwData (v : Word) : (s.clearStatus v).cwData = s.cwData := rfl
@[simp] theorem clearStatus_qrSize (v : Word) : (s.clearStatus v).qrSize = s.qrSize := rfl
@[simp] theorem clearStatus_layoutMask (v : Word) : (s.clearStatus v).layoutMask = s.layoutMask := rfl
@[simp] theorem clearStatus_layoutTest (v : Word) : (s.clearStatus v).layoutTest = s.layoutTest := rfl
@[simp] theorem clearStatus_chosen (v : Word) : (s.clearStatus v).chosen = s.chosen := rfl
@[simp] theorem clearStatus_chosenValid (v : Word) : (s.clearStatus v).chosenValid = s.chosenValid := rfl
@[simp] theorem clearStatus_crc (v : Word) : (s.clearStatus v).crc = s.crc := rfl
@[simp] theorem clearStatus_segCount (v : Word) : (s.clearStatus v).segCount = s.segCount := rfl
@[simp] theorem clearStatus_segs (v : Word) : (s.clearStatus v).segs = s.segs := rfl
@[simp] theorem clearStatus_penalty (v : Word) : (s.clearStatus v).penalty = s.penalty := rfl
@[simp] theorem clearStatus_penR1 (v : Word) : (s.clearStatus v).penR1 = s.penR1 := rfl
@[simp] theorem clearStatus_penR2 (v : Word) : (s.clearStatus v).penR2 = s.penR2 := rfl
@[simp] theorem clearStatus_penR3 (v : Word) : (s.clearStatus v).penR3 = s.penR3 := rfl
@[simp] theorem clearStatus_penR4 (v : Word) : (s.clearStatus v).penR4 = s.penR4 := rfl
@[simp] theorem clearStatus_mscore (v : Word) : (s.clearStatus v).mscore = s.mscore := rfl
@[simp] theorem clearStatus_mem (v : Word) : (s.clearStatus v).mem = s.mem := rfl
@[simp] theorem clearStatus_matrix (v : Word) : (s.clearStatus v).matrix = s.matrix := rfl
@[simp] theorem clearStatus_prGen (v : Word) : (s.clearStatus v).prGen = s.prGen := rfl
@[simp] theorem clearStatus_bbGen (v : Word) : (s.clearStatus v).bbGen = s.bbGen := rfl
@[simp] theorem clearStatus_cwGen (v : Word) : (s.clearStatus v).cwGen = s.cwGen := rfl
@[simp] theorem clearStatus_draws (v : Word) : (s.clearStatus v).draws = s.draws := rfl
@[simp] theorem clearStatus_turns (v : Word) : (s.clearStatus v).turns = s.turns := rfl
@[simp] theorem clearStatus_resp (v : Word) : (s.clearStatus v).resp = s.resp := rfl

/-! ### softReset -/

@[simp] theorem softReset_irqEn : s.softReset.irqEn = false := rfl
@[simp] theorem softReset_busy : s.softReset.busy = false := rfl
@[simp] theorem softReset_done : s.softReset.done = false := rfl
@[simp] theorem softReset_err : s.softReset.err = false := rfl
@[simp] theorem softReset_ovr : s.softReset.ovr = false := rfl
@[simp] theorem softReset_errCode : s.softReset.errCode = 0 := rfl
@[simp] theorem softReset_errOpcode : s.softReset.errOpcode = 0 := rfl
@[simp] theorem softReset_latch : s.softReset.latch = 0 := rfl
@[simp] theorem softReset_arg0 : s.softReset.arg0 = 0 := rfl
@[simp] theorem softReset_arg1 : s.softReset.arg1 = 0 := rfl
@[simp] theorem softReset_res0 : s.softReset.res0 = 0 := rfl
@[simp] theorem softReset_res1 : s.softReset.res1 = 0 := rfl
@[simp] theorem softReset_paLen : s.softReset.paLen = 0 := rfl
@[simp] theorem softReset_pbLen : s.softReset.pbLen = 0 := rfl
@[simp] theorem softReset_prLen : s.softReset.prLen = 0 := rfl
@[simp] theorem softReset_bbLen : s.softReset.bbLen = 0 := rfl
@[simp] theorem softReset_cfg : s.softReset.cfg = ⟨0, 0, 8⟩ := rfl
@[simp] theorem softReset_qrState : s.softReset.qrState = .empty := rfl
@[simp] theorem softReset_qrVer : s.softReset.qrVer = 0 := rfl
@[simp] theorem softReset_cwValid : s.softReset.cwValid = false := rfl
@[simp] theorem softReset_cwTotal : s.softReset.cwTotal = 0 := rfl
@[simp] theorem softReset_cwData : s.softReset.cwData = 0 := rfl
@[simp] theorem softReset_qrSize : s.softReset.qrSize = 0 := rfl
@[simp] theorem softReset_layoutMask : s.softReset.layoutMask = 0 := rfl
@[simp] theorem softReset_layoutTest : s.softReset.layoutTest = false := rfl
@[simp] theorem softReset_chosen : s.softReset.chosen = 0 := rfl
@[simp] theorem softReset_chosenValid : s.softReset.chosenValid = false := rfl
@[simp] theorem softReset_crc : s.softReset.crc = 0xFFFF := rfl
@[simp] theorem softReset_segCount : s.softReset.segCount = 0 := rfl
@[simp] theorem softReset_segs : s.softReset.segs = Vector.replicate 8 ⟨0, 0⟩ := rfl
@[simp] theorem softReset_penalty : s.softReset.penalty = 0 := rfl
@[simp] theorem softReset_penR1 : s.softReset.penR1 = 0 := rfl
@[simp] theorem softReset_penR2 : s.softReset.penR2 = 0 := rfl
@[simp] theorem softReset_penR3 : s.softReset.penR3 = 0 := rfl
@[simp] theorem softReset_penR4 : s.softReset.penR4 = 0 := rfl
@[simp] theorem softReset_mscore : s.softReset.mscore = Vector.replicate 8 0 := rfl
@[simp] theorem softReset_matrix : s.softReset.matrix = [] := rfl
@[simp] theorem softReset_prGen : s.softReset.prGen = s.prGen + 1 := rfl
@[simp] theorem softReset_bbGen : s.softReset.bbGen = s.bbGen + 1 := rfl
@[simp] theorem softReset_cwGen : s.softReset.cwGen = s.cwGen + 1 := rfl
@[simp] theorem softReset_draws : s.softReset.draws = s.draws := rfl
@[simp] theorem softReset_turns : s.softReset.turns = s.turns := rfl
@[simp] theorem softReset_resp : s.softReset.resp = s.resp := rfl

end

end Sys2Proof.Machine
end

