-- ==== Sys2Proof/Laws/Ops.lean ====
section
/-! SUPPORT. One lemma per shared operation, saying once everything it can do: later proofs cite these and do
not unfold the operations. -/

namespace Sys2Proof.Machine

/-! ### Completion -/

@[simp] theorem complete_ok (s t : State) : complete s (.ok t) = .next t.succeed := rfl

@[simp] theorem complete_error (s : State) (c : ErrorCode) : complete s (.error c) = .next (s.fail c) := rfl

/-- Completion always answers a next state: the outcome's state, or `s` with the error recorded. -/
theorem complete_cases {s u : State} {r : Except ErrorCode State} (h : complete s r = .next u) :
    (∃ t, r = .ok t ∧ u = t.succeed) ∨ (∃ c, r = .error c ∧ u = s.fail c) := by
  cases r with
  | ok t => exact .inl ⟨t, rfl, by simpa using h.symm⟩
  | error c => exact .inr ⟨c, rfl, by simpa using h.symm⟩

theorem errorNumber_ne_zero (c : ErrorCode) : errorNumber c ≠ 0 := by cases c <;> decide

theorem errorNumber_le (c : ErrorCode) : (errorNumber c).toNat ≤ 8 := by cases c <;> decide

@[simp] theorem ifLegal_true (r : Except ErrorCode State) : ifLegal true r = r := rfl

@[simp] theorem ifLegal_false (r : Except ErrorCode State) : ifLegal false r = .error .rangeError := rfl

theorem ifLegal_ok {b : Bool} {r : Except ErrorCode State} {t : State} (h : ifLegal b r = .ok t) :
    b = true ∧ r = .ok t := by
  cases b
  · simp at h
  · exact ⟨rfl, h⟩

theorem resByte_ok {s t : State} {r : Except ErrorCode Byte} (h : resByte s r = .ok t) :
    ∃ b, r = .ok b ∧ t = s.setRes0 (b.setWidth 32) := by
  cases r with
  | ok b => exact ⟨b, rfl, by simpa [resByte] using h.symm⟩
  | error c => simp [resByte] at h

theorem resPoly_ok {s t : State} {r : Except ErrorCode Poly} (h : resPoly s r = .ok t) :
    ∃ p, r = .ok p ∧ t = s.storePr p := by
  cases r with
  | ok p => exact ⟨p, rfl, by simpa [resPoly] using h.symm⟩
  | error c => simp [resPoly] at h

/-! ### Bytes -/

/-- A RAM byte depends only on what is listed at its offset and on its generation. -/
theorem ramByte_congr {s t : State} {a : Nat} (hm : t.mem.read a = s.mem.read a)
    (hg : t.genOf a = s.genOf a) : t.ramByte a = s.ramByte a := by
  simp only [State.ramByte, hm, hg]

theorem ramByte_of_listed {s : State} {a : Nat} {b : Byte} (h : s.mem.read a = some b) :
    s.ramByte a = b := by
  simp only [State.ramByte, h]

theorem genOf_congr {s t : State} (hp : t.prGen = s.prGen) (hb : t.bbGen = s.bbGen)
    (hc : t.cwGen = s.cwGen) (a : Nat) : t.genOf a = s.genOf a := by
  simp only [State.genOf, hp, hb, hc]

/-! ### The commands' outcomes -/

theorem polyMulOutcome_ok {s t : State} (h : polyMulOutcome s = .ok t) :
    polyLenOk s.paLen = true ∧ polyLenOk s.pbLen = true ∧ (pmul s.polyA s.polyB).length ≤ 256 ∧
      t = s.storePr (pmul s.polyA s.polyB) := by
  simp only [polyMulOutcome] at h
  split at h
  · simp at h
  · split at h
    · simp at h
    · split at h
      · simp at h
      · rename_i h1 h2 h3
        exact ⟨by simpa using h1, by simpa using h2, Nat.le_of_not_lt h3, by simpa [resPoly] using h.symm⟩

theorem polyModOutcome_ok {s t : State} (h : polyModOutcome s = .ok t) :
    polyLenOk s.paLen = true ∧ polyLenOk s.pbLen = true ∧
      ∃ r, pmod s.polyA s.polyB = .ok r ∧ t = s.storePr r := by
  simp only [polyModOutcome] at h
  split at h
  · simp at h
  · split at h
    · simp at h
    · rename_i h1 h2
      exact ⟨by simpa using h1, by simpa using h2, resPoly_ok h⟩

theorem rsEccOutcome_ok {s t : State} {k : Byte} (h : rsEccOutcome k s = .ok t) :
    polyLenOk s.paLen = true ∧ ∃ e, rsecc s.polyA k.toNat = .ok e ∧ t = s.storePr e := by
  simp only [rsEccOutcome] at h
  split at h
  · simp at h
  · rename_i h1
    exact ⟨by simpa using h1, resPoly_ok h⟩

theorem appendBit_ok {b : Bool} {s t : State} (h : appendBit b s = .ok t) :
    s.bbLen.toNat < 32768 ∧ ∃ v, t = s.storeBit (s.bbLen.toNat / 8) v (s.bbLen.toNat + 1) := by
  simp only [appendBit] at h
  split at h
  · simp at h
  · rename_i h1
    exact ⟨Nat.lt_of_not_le h1, _, by simpa using h.symm⟩

@[simp] theorem appendBits_nil (s : State) : appendBits [] s = .ok s := rfl

theorem appendBits_cons_ok {b : Bool} {bs : List Bool} {s t : State} (h : appendBits (b :: bs) s = .ok t) :
    ∃ u, appendBit b s = .ok u ∧ appendBits bs u = .ok t := by
  rw [appendBits] at h
  split at h
  · exact ⟨_, ‹_›, h⟩
  · simp at h

theorem bbPutOutcome_ok {n : Nat} {s t : State} (h : bbPutOutcome n s = .ok t) :
    s.bbLen.toNat + n ≤ 32768 ∧ appendBits (bitsOf s.arg0.toNat n) s = .ok t := by
  simp only [bbPutOutcome] at h
  split at h
  · simp at h
  · rename_i h1
    exact ⟨Nat.le_of_not_lt h1, h⟩

theorem crcBufOutcome_ok {s t : State} (h : crcBufOutcome s = .ok t) :
    inbufRangeOk s.arg0 s.arg1 = true ∧
      t = s.setCrc (crcFold s.crc (s.inbufBytes s.arg0.toNat s.arg1.toNat)) := by
  simp only [crcBufOutcome] at h
  split at h
  · exact ⟨‹_›, by simpa using h.symm⟩
  · simp at h

/-- The version an automatic selection takes fits the lengths it was given (R228). -/
theorem selectVersion_fits {lens : List Nat} {lv : Level} {v : Nat} (h : selectVersion lens lv = some v) :
    bitLen lens v ≤ 8 * dataCount v lv := by
  simpa using List.find?_some h

/-- The one error of buildData, and when: only the segments' lengths, not their bytes, decide (R230). -/
theorem buildData_error_iff {segs : List (List Byte)} {v : Nat} {lv : Level} {c : ErrorCode} :
    buildData segs v lv = .error c ↔
      c = .codeLengthOverflow ∧ 8 * dataCount v lv < bitLen (segs.map List.length) v := by
  unfold buildData
  by_cases h : 8 * dataCount v lv < bitLen (segs.map List.length) v
  · simp [h, eq_comm]
  · simp [h]

theorem buildCodewords_ok {s t : State} (h : buildCodewords s = .ok t) :
    ∃ d c, buildData (s.segList.map s.segBytes) s.qrVer.toNat (levelOf s.cfg.ecc) = .ok d ∧
      codewordSequence d (blockList s.qrVer.toNat (levelOf s.cfg.ecc)) = .ok c ∧
      t = s.storeCodewords d c (dataCount s.qrVer.toNat (levelOf s.cfg.ecc))
        (totalCount s.qrVer.toNat (levelOf s.cfg.ecc)) := by
  simp only [buildCodewords] at h
  split at h
  · simp at h
  · split at h
    · simp at h
    · exact ⟨_, _, ‹_›, ‹_›, by simpa using h.symm⟩

theorem ensureCw_ok {s t : State} (h : ensureCw s = .ok t) :
    (s.cwValid = true ∧ t = s) ∨ (s.cwValid = false ∧ buildCodewords s = .ok t) := by
  simp only [ensureCw] at h
  split at h
  · exact .inl ⟨‹_›, by simpa using h.symm⟩
  · rename_i h1
    exact .inr ⟨by simpa using h1, h⟩

/-! ### The builder's outcomes -/

theorem configOutcome_ok {m e v : Byte} {s t : State} (h : configOutcome m e v s = .ok t) :
    (s.qrState = .empty ∨ s.qrState = .dataAppended) ∧
      t = s.setCfg ⟨v.setWidth 6, e.setWidth 2, m.setWidth 4⟩ := by
  simp only [configOutcome] at h
  split at h <;> simp_all

theorem appendOutcome_ok {s t : State} (h : appendOutcome s = .ok t) :
    s.qrState ≠ .matrixFinal ∧ inbufRangeOk s.arg0 s.arg1 = true ∧ s.segCount.toNat < 8 ∧
      t = (((s.addSeg ⟨s.arg0.setWidth 12, s.arg1.setWidth 13⟩).invalidate).setVersion 0).setQrState
        .dataAppended := by
  simp only [appendOutcome] at h
  split at h
  · simp at h
  · split at h
    · simp at h
    · split at h
      · simp at h
      · rename_i h1 h2 h3
        exact ⟨h1, by simpa using h2, Nat.lt_of_not_le h3, by simpa using h.symm⟩

theorem selVerOutcome_ok {s t : State} (h : selVerOutcome s = .ok t) :
    (s.qrState = .dataAppended ∨ s.qrState.hasVersion = true) ∧
      ((s.cfg.vreq = 0 ∧ ∃ v, selectVersion (s.segList.map (fun g => g.len.toNat)) (levelOf s.cfg.ecc) = some v ∧
          t = s.selectedVersion (BitVec.ofNat 6 v)) ∨
        (s.cfg.vreq ≠ 0 ∧ t = s.selectedVersion s.cfg.vreq)) := by
  simp only [selVerOutcome] at h
  split at h
  · refine ⟨‹_›, ?_⟩
    split at h
    · split at h
      · simp at h
      · exact .inl ⟨‹_›, _, ‹_›, by simpa using h.symm⟩
    · exact .inr ⟨‹_›, by simpa using h.symm⟩
  · simp at h

theorem codewordsOutcome_ok {s t : State} (h : codewordsOutcome s = .ok t) :
    s.qrState.hasVersion = true ∧ buildCodewords s = .ok t := by
  simp only [codewordsOutcome] at h
  split at h
  · exact ⟨‹_›, h⟩
  · simp at h

theorem layoutOutcome_ok {test : Bool} {mask : BitVec 3} {s t : State}
    (h : layoutOutcome test mask s = .ok t) :
    s.qrState.hasVersion = true ∧ ∃ u, ensureCw s = .ok u ∧
      t = (u.layOut mask test).setQrState (if test then .matrixLaidOut else .matrixFinal) := by
  simp only [layoutOutcome] at h
  split at h
  · refine ⟨‹_›, ?_⟩
    split at h
    · simp at h
    · exact ⟨_, ‹_›, by simpa using h.symm⟩
  · simp at h

theorem penaltyOutcome_ok {s t : State} (h : penaltyOutcome s = .ok t) :
    s.qrSize ≠ 0 ∧ t = s.storeScoreOf s.shownGrid := by
  simp only [penaltyOutcome] at h
  split at h
  · simp at h
  · exact ⟨‹_›, by simpa using h.symm⟩

theorem maskSelOutcome_ok {s t : State} (h : maskSelOutcome s = .ok t) :
    s.qrState.hasVersion = true ∧
      ((s.cfg.mreq = 8 ∧ ∃ u, ensureCw s = .ok u ∧ t = u.selectAuto.setQrState .maskChosen) ∨
        (s.cfg.mreq ≠ 8 ∧ t = (s.choose (s.cfg.mreq.setWidth 3)).setQrState .maskChosen)) := by
  simp only [maskSelOutcome] at h
  split at h
  · refine ⟨‹_›, ?_⟩
    split at h
    · split at h
      · simp at h
      · exact .inl ⟨‹_›, _, ‹_›, by simpa using h.symm⟩
    · exact .inr ⟨‹_›, by simpa using h.symm⟩
  · simp at h

theorem finalOutcome_ok {s t : State} (h : finalOutcome s = .ok t) :
    s.qrState.hasVersion = true ∧ s.chosenValid = true ∧ ∃ u, ensureCw s = .ok u ∧
      t = (u.layOut u.chosen false).setQrState .matrixFinal := by
  simp only [finalOutcome] at h
  split at h
  · rename_i hc
    refine ⟨(Bool.and_eq_true _ _ ▸ hc).1, (Bool.and_eq_true _ _ ▸ hc).2, ?_⟩
    split at h
    · simp at h
    · exact ⟨_, ‹_›, by simpa using h.symm⟩
  · simp at h

theorem thenIf_ok {r : Except ErrorCode State} {p : State → Bool} {f : State → Except ErrorCode State}
    {t : State} (h : thenIf r p f = .ok t) :
    ∃ u, r = .ok u ∧ ((p u = true ∧ f u = .ok t) ∨ (p u = false ∧ t = u)) := by
  cases r with
  | error c => simp [thenIf] at h
  | ok u =>
    refine ⟨u, rfl, ?_⟩
    simp only [thenIf] at h
    split at h
    · exact .inl ⟨‹_›, h⟩
    · rename_i h1
      exact .inr ⟨by simpa using h1, by simpa using h.symm⟩

/-- What QR_MAKE does when it succeeds: the four commands in turn, each where its condition holds. -/
theorem makeOutcome_ok {s t : State} (h : makeOutcome s = .ok t) :
    (s.qrState = .dataAppended ∨ s.qrState.hasVersion = true) ∧
      ∃ a b c, ((s.qrState = .dataAppended ∧ selVerOutcome s = .ok a) ∨
          (s.qrState ≠ .dataAppended ∧ a = s)) ∧
        ((a.cwValid = false ∧ codewordsOutcome a = .ok b) ∨ (a.cwValid = true ∧ b = a)) ∧
        ((b.chosenValid = false ∧ maskSelOutcome b = .ok c) ∨ (b.chosenValid = true ∧ c = b)) ∧
        finalOutcome c = .ok t := by
  simp only [makeOutcome] at h
  split at h
  · refine ⟨‹_›, ?_⟩
    obtain ⟨c, hc, hf⟩ := thenIf_ok h
    obtain ⟨b, hb, hm⟩ := thenIf_ok hc
    obtain ⟨a, ha, hw⟩ := thenIf_ok hb
    obtain ⟨u, hu, hv⟩ := thenIf_ok ha
    obtain rfl : s = u := by simpa using hu
    refine ⟨a, b, c, ?_, ?_, ?_, ?_⟩
    · simpa using hv
    · simpa using hw
    · simpa using hm
    · simpa using hf
  · simp at h

/-! ### Turns -/

theorem decodeChecked_ok {w : Word} {i : Instr} :
    decodeChecked w = .ok i ↔ decode w = .ok i ∧ i.wellFormed = true := by
  unfold decodeChecked
  cases decode w with
  | error c => simp
  | ok j =>
    by_cases h : j.wellFormed = true
    · simp only [h, if_true, Except.ok.injEq]
      exact ⟨fun e => ⟨e, e ▸ h⟩, And.left⟩
    · simp only [h, if_false, reduceCtorEq, Except.ok.injEq, false_iff, not_and]
      exact fun e hi => h (e ▸ hi)

/-- A target is in flight exactly while a command is pending that may write it. -/
theorem inFlight_iff {s : State} {t : Target} :
    s.inFlight t = true ↔ s.busy = true ∧ ∃ i, decode s.latch = .ok i ∧ i.wellFormed = true ∧ t.writtenBy i = true := by
  simp only [State.inFlight, Bool.and_eq_true]
  split
  · rename_i i h
    have hi := decodeChecked_ok.1 h
    constructor
    · exact fun ⟨hb, hw⟩ => ⟨hb, i, hi.1, hi.2, hw⟩
    · rintro ⟨hb, j, hj, -, hw⟩
      obtain rfl : i = j := by simpa [hi.1] using hj
      exact ⟨hb, hw⟩
  · rename_i c h
    simp only [Bool.false_eq_true, and_false, false_iff]
    rintro ⟨-, i, hi, hwf, -⟩
    simp [decodeChecked_ok.2 ⟨hi, hwf⟩] at h

/-- A read answers the current value, or, of a target in flight, a free value. -/
theorem hostRead_cases (s : State) (width : Width) (t : Target) :
    (s.inFlight t = false ∧ s.hostRead width t = s.respond (.value (s.readTarget width t))) ∨
      (s.inFlight t = true ∧ ∃ v, s.hostRead width t = (s.respond (.value v)).drawn) := by
  simp only [State.hostRead]
  split
  · exact .inr ⟨‹_›, _, rfl⟩
  · rename_i h
    exact .inl ⟨by simpa using h, rfl⟩

/-- A host access that answers a next state: an admitted read, or an admitted write that is no HostHazard. -/
theorem hostAccess_next {a : HostAccess} {s t : State} (h : hostAccess a s = .next t) :
    (∃ width off tg, a = .read width off ∧ targetOf width off.toNat = .ok tg ∧ t = s.hostRead width tg) ∨
      (∃ width off v tg, a = .write width off v ∧ targetOf width off.toNat = .ok tg ∧
        (s.busy && tg.isOperand) = false ∧ t = (s.writeTarget width v tg).respond .wrote) := by
  cases a with
  | read width off =>
    simp only [hostAccess] at h
    split at h
    · simp at h
    · exact .inl ⟨_, _, _, rfl, ‹_›, by simpa using h.symm⟩
  | write width off v =>
    simp only [hostAccess] at h
    split at h
    · simp at h
    · split at h
      · simp at h
      · rename_i h1 h2
        exact .inr ⟨_, _, _, _, rfl, h1, by simpa using h2, by simpa using h.symm⟩

/-- The engine's turn: a command's own meaning or its error, or nothing while BUSY = 0. -/
theorem engineTurn_next {s t : State} (h : engineTurn s = .next t) :
    (s.busy = false ∧ t = s) ∨ (s.busy = true ∧ ∃ i, decode s.latch = .ok i ∧ exec i s = .next t) ∨
      (s.busy = true ∧ ∃ c, decode s.latch = .error c ∧ t = s.fail c) := by
  simp only [engineTurn] at h
  split at h
  · rename_i hb
    simp only [engineStep] at h
    split at h
    · exact .inr (.inr ⟨hb, _, ‹_›, by simpa using h.symm⟩)
    · exact .inr (.inl ⟨hb, _, ‹_›, h⟩)
  · rename_i hb
    exact .inl ⟨by simpa using hb, by simpa using h.symm⟩

/-- One step: a turn of the host or of the engine. -/
theorem step_next {s t : State} (h : step s = .next t) :
    (s.turns = [] ∧ engineTurn s = .next t) ∨
      (∃ ts, s.turns = .engine :: ts ∧ engineTurn (s.setTurns ts) = .next t) ∨
      (∃ a ts, s.turns = .host a :: ts ∧ hostAccess a (s.setTurns ts) = .next t) := by
  simp only [step] at h
  split at h
  · exact .inl ⟨‹_›, h⟩
  · exact .inr (.inl ⟨_, ‹_›, h⟩)
  · exact .inr (.inr ⟨_, _, ‹_›, h⟩)

end Sys2Proof.Machine
end

