-- ==== Sys2Proof/Laws/PerInstr.lean ====
section
/-! SUPPORT. Statements made per command. Family OpcodeField: the opcode byte of each command's encoding is the
one the opcode map of spec/30_encoding.md R93 gives it, read off the map and not off the encoder. -/

namespace Sys2Proof.Laws.OpcodeField

/-- The opcode of a command in the opcode map (R93). -/
def opcode : Instr → Byte
  | .nop => 0x00
  | .gfMul _ _ => 0x01
  | .gfDiv _ _ => 0x02
  | .gfInv _ => 0x03
  | .gfLog _ => 0x04
  | .gfExp _ => 0x05
  | .polyMul => 0x10
  | .polyMod => 0x11
  | .rsGen _ => 0x12
  | .rsEcc _ => 0x13
  | .bbClear => 0x20
  | .bbPut _ => 0x21
  | .bbPutBit _ => 0x22
  | .qrClear => 0x30
  | .qrConfig _ _ _ => 0x31
  | .qrAppend => 0x32
  | .qrSelVer => 0x33
  | .qrCodewords => 0x34
  | .qrLayout _ _ => 0x35
  | .qrPenalty => 0x36
  | .qrMaskSel => 0x37
  | .qrFinal => 0x38
  | .qrMake => 0x39
  | .qrFmtBch _ _ => 0x3A
  | .qrVerBch _ => 0x3B
  | .tblQuery _ _ => 0x3C
  | .tblAlign _ => 0x3D
  | .crcInit => 0x40
  | .crcByte _ => 0x41
  | .crcBuf => 0x42

/-- The opcode byte of the command's word is its opcode in the map. -/
def Statement (i : Instr) : Prop := opField (encode i) = opcode i

theorem nop : Statement .nop := opField_word _ _ _ _
theorem gfMul (a b : Byte) : Statement (.gfMul a b) := opField_word _ _ _ _
theorem gfDiv (a b : Byte) : Statement (.gfDiv a b) := opField_word _ _ _ _
theorem gfInv (b : Byte) : Statement (.gfInv b) := opField_word _ _ _ _
theorem gfLog (a : Byte) : Statement (.gfLog a) := opField_word _ _ _ _
theorem gfExp (e : Byte) : Statement (.gfExp e) := opField_word _ _ _ _
theorem polyMul : Statement .polyMul := opField_word _ _ _ _
theorem polyMod : Statement .polyMod := opField_word _ _ _ _
theorem rsGen (t : Byte) : Statement (.rsGen t) := opField_word _ _ _ _
theorem rsEcc (t : Byte) : Statement (.rsEcc t) := opField_word _ _ _ _
theorem bbClear : Statement .bbClear := opField_word _ _ _ _
theorem bbPut (n : Byte) : Statement (.bbPut n) := opField_word _ _ _ _
theorem bbPutBit (b : Byte) : Statement (.bbPutBit b) := opField_word _ _ _ _
theorem qrClear : Statement .qrClear := opField_word _ _ _ _
theorem qrConfig (m e v : Byte) : Statement (.qrConfig m e v) := opField_word _ _ _ _
theorem qrAppend : Statement .qrAppend := opField_word _ _ _ _
theorem qrSelVer : Statement .qrSelVer := opField_word _ _ _ _
theorem qrCodewords : Statement .qrCodewords := opField_word _ _ _ _
theorem qrLayout (t m : Byte) : Statement (.qrLayout t m) := opField_word _ _ _ _
theorem qrPenalty : Statement .qrPenalty := opField_word _ _ _ _
theorem qrMaskSel : Statement .qrMaskSel := opField_word _ _ _ _
theorem qrFinal : Statement .qrFinal := opField_word _ _ _ _
theorem qrMake : Statement .qrMake := opField_word _ _ _ _
theorem qrFmtBch (e m : Byte) : Statement (.qrFmtBch e m) := opField_word _ _ _ _
theorem qrVerBch (v : Byte) : Statement (.qrVerBch v) := opField_word _ _ _ _
theorem tblQuery (e v : Byte) : Statement (.tblQuery e v) := opField_word _ _ _ _
theorem tblAlign (v : Byte) : Statement (.tblAlign v) := opField_word _ _ _ _
theorem crcInit : Statement .crcInit := opField_word _ _ _ _
theorem crcByte (b : Byte) : Statement (.crcByte b) := opField_word _ _ _ _
theorem crcBuf : Statement .crcBuf := opField_word _ _ _ _

end Sys2Proof.Laws.OpcodeField
end

