-- ==== Sys2Proof/Tests/Slice0.lean ====
section
/-! SUPPORT. Tests: ill-formed commands are refused, words written out from spec/30_encoding.md decode as they
should, each command's example of spec/41 to spec/47 comes out in one step, and a witness meets the hypotheses
of each statement. Expected values are the spec's own (the rule is named at each test). -/

namespace Sys2Proof.Tests

open Sys2Proof Sys2Proof.Machine

/-! ### WellFormed refuses an operand just outside each range (R93) -/

theorem test_wf_rsEcc_zero : (Instr.rsEcc 0).wellFormed = false := by decide
theorem test_wf_bbPut_33 : (Instr.bbPut 33).wellFormed = false := by decide
theorem test_wf_bbPutBit_2 : (Instr.bbPutBit 2).wellFormed = false := by decide
theorem test_wf_qrConfig_mreq : (Instr.qrConfig 9 0 0).wellFormed = false := by decide
theorem test_wf_qrConfig_ecc : (Instr.qrConfig 0 4 0).wellFormed = false := by decide
theorem test_wf_qrConfig_vreq : (Instr.qrConfig 0 0 41).wellFormed = false := by decide
theorem test_wf_qrLayout_test : (Instr.qrLayout 2 0).wellFormed = false := by decide
theorem test_wf_qrLayout_mask : (Instr.qrLayout 0 8).wellFormed = false := by decide
theorem test_wf_qrFmtBch_ecc : (Instr.qrFmtBch 4 0).wellFormed = false := by decide
theorem test_wf_qrFmtBch_mask : (Instr.qrFmtBch 0 8).wellFormed = false := by decide
theorem test_wf_qrVerBch_64 : (Instr.qrVerBch 64).wellFormed = false := by decide
theorem test_wf_tblQuery_ecc : (Instr.tblQuery 4 1).wellFormed = false := by decide
theorem test_wf_tblQuery_zero : (Instr.tblQuery 0 0).wellFormed = false := by decide
theorem test_wf_tblQuery_41 : (Instr.tblQuery 0 41).wellFormed = false := by decide
theorem test_wf_tblAlign_zero : (Instr.tblAlign 0).wellFormed = false := by decide
theorem test_wf_tblAlign_41 : (Instr.tblAlign 41).wellFormed = false := by decide

/-! ### Words written out from R93, R97 and R99 -/

theorem test_decode_gf :
    decode 0x00000000 = .ok .nop ∧ decode 0x01000280 = .ok (.gfMul 0x02 0x80) ∧
    decode 0x02005783 = .ok (.gfDiv 0x57 0x83) ∧ decode 0x03000003 = .ok (.gfInv 3) ∧
    decode 0x0400001D = .ok (.gfLog 0x1D) ∧ decode 0x05000064 = .ok (.gfExp 100) := by decide

theorem test_decode_poly :
    decode 0x10000000 = .ok .polyMul ∧ decode 0x11000000 = .ok .polyMod ∧
    decode 0x12000002 = .ok (.rsGen 2) ∧ decode 0x1300000A = .ok (.rsEcc 10) := by decide

theorem test_decode_bitbuf :
    decode 0x20000000 = .ok .bbClear ∧ decode 0x21000004 = .ok (.bbPut 4) ∧
    decode 0x22000001 = .ok (.bbPutBit 1) := by decide

theorem test_decode_builder :
    decode 0x30000000 = .ok .qrClear ∧ decode 0x31030207 = .ok (.qrConfig 3 2 7) ∧
    decode 0x32000000 = .ok .qrAppend ∧ decode 0x33000000 = .ok .qrSelVer ∧
    decode 0x34000000 = .ok .qrCodewords ∧ decode 0x35000105 = .ok (.qrLayout 1 5) ∧
    decode 0x36000000 = .ok .qrPenalty ∧ decode 0x37000000 = .ok .qrMaskSel ∧
    decode 0x38000000 = .ok .qrFinal ∧ decode 0x39000000 = .ok .qrMake := by decide

theorem test_decode_tables :
    decode 0x3A000305 = .ok (.qrFmtBch 3 5) ∧ decode 0x3B000007 = .ok (.qrVerBch 7) ∧
    decode 0x3C000305 = .ok (.tblQuery 3 5) ∧ decode 0x3D000007 = .ok (.tblAlign 7) := by decide

theorem test_decode_crc :
    decode 0x40000000 = .ok .crcInit ∧ decode 0x41000041 = .ok (.crcByte 0x41) ∧
    decode 0x42000000 = .ok .crcBuf := by decide

/-- R94, R95, R126: reserved opcodes, and a nonzero must-be-zero field in each place. -/
theorem test_decode_illegal :
    decode 0x06000000 = .error .illegalCommand ∧ decode 0x43000000 = .error .illegalCommand ∧
    decode 0x00000001 = .error .illegalCommand ∧ decode 0x03000100 = .error .illegalCommand ∧
    decode 0x01010000 = .error .illegalCommand := by decide

/-- R357: F1 = 1 and version 64 at once is IllegalCommand; version 64 alone is RangeError. -/
theorem test_decode_order :
    decodeChecked 0x3B010040 = .error .illegalCommand ∧ decodeChecked 0x3B000040 = .error .rangeError := by
  decide

theorem test_decodeTableWord : decodeTableWord 32 0x13000000 = some (.rsEcc 0) := by decide

/-! ### One step of each command -/

/-- The step answers a next state with the property. -/
def answers (o : Host.Outcome State Fault Refusal) (p : State → Bool) : Bool :=
  match o with
  | .next t => p t
  | _ => false

/-- Bytes listed from an offset on. -/
def withBytes (s : State) (a : Nat) (l : List Byte) : State := s.writeRam a l

/-- R126. -/
theorem test_nop : answers (step (State.reset.withFetchWord 32 0)) (fun t => t.statusWord == 2) = true := by
  decide

/-- R146. -/
theorem test_gfMul :
    answers (step (State.reset.withFetchWord 32 0x01000280)) (fun t => t.res0 == 0x1D) = true := by decide

/-- R147; R351. -/
theorem test_gfDiv :
    answers (exec (.gfDiv 1 2) State.reset) (fun t => t.res0 == 0x8E) = true ∧
    answers (exec (.gfDiv 0 0) State.reset) (fun t => t.errCode == 1) = true := by decide

/-- R148. -/
theorem test_gfInv :
    answers (exec (.gfInv 3) State.reset) (fun t => t.res0 == 0xF4) = true ∧
    answers (exec (.gfInv 1) State.reset) (fun t => t.res0 == 1) = true := by decide

/-- R149. -/
theorem test_gfLog :
    answers (exec (.gfLog 0x1D) State.reset) (fun t => t.res0 == 8) = true ∧
    answers (exec (.gfLog 0) State.reset) (fun t => t.errCode == 1) = true := by decide

/-- R150. -/
theorem test_gfExp :
    answers (exec (.gfExp 100) State.reset) (fun t => t.res0 == 0x11) = true ∧
    answers (exec (.gfExp 255) State.reset) (fun t => t.res0 == 1) = true := by decide

/-- PA and PB with their lengths. -/
def polyState (a b : List Byte) : State :=
  { withBytes (withBytes State.reset 0x02000 a) 0x02100 b with
    paLen := BitVec.ofNat 9 a.length, pbLen := BitVec.ofNat 9 b.length }

/-- PR holds the polynomial. -/
def prIs (p : List Byte) (t : State) : Bool :=
  !t.err && t.prLen.toNat == p.length && t.ramBytes 0x02200 p.length == p

/-- R167; R162. -/
theorem test_polyMul :
    answers (exec .polyMul (polyState [1, 2] [1, 3])) (prIs [1, 1, 6]) = true ∧
    answers (exec .polyMul (polyState [] [1])) (fun t => t.errCode == 7) = true := by decide

/-- R168: leading zeros of the divisor are ignored; a zero divisor. -/
theorem test_polyMod :
    answers (exec .polyMod (polyState [5, 6, 7] [1, 0])) (prIs [7]) = true ∧
    answers (exec .polyMod (polyState [1, 2] [0])) (fun t => t.errCode == 1) = true := by decide

/-- R169. -/
theorem test_rsGen :
    answers (exec (.rsGen 2) State.reset) (prIs [1, 3, 2]) = true ∧
    answers (exec (.rsGen 0) State.reset) (prIs [1]) = true := by decide

/-- R169, R170: RS_ECC of [1] with t = 7 gives the generator's lower coefficients; leading zeros change nothing. -/
theorem test_rsEcc :
    answers (exec (.rsEcc 7) (polyState [0, 0, 1] [])) (prIs [127, 122, 154, 164, 11, 68, 117]) = true := by
  decide

/-- R206. -/
theorem test_bbClear :
    answers (exec .bbClear { State.reset with bbLen := 12 }) (fun t => t.bbLen == 0) = true := by decide

/-- R207: bits of ARG0 above nbits are ignored; a put across a byte boundary. -/
theorem test_bbPut :
    answers (exec (.bbPut 4) { State.reset with arg0 := 0x1F5 })
      (fun t => t.bbLen == 4 && t.ramByte 0x04000 == 0x50) = true ∧
    answers (exec (.bbPut 8) { withBytes State.reset 0x04000 [0x40] with arg0 := 5, bbLen := 4 })
      (fun t => t.bbLen == 12 && t.ramBytes 0x04000 2 == [0x40, 0x50]) = true := by decide

/-- R208: the bit is put first in a new byte; a full buffer. -/
theorem test_bbPutBit :
    answers (exec (.bbPutBit 1) State.reset) (fun t => t.bbLen == 1 && t.ramByte 0x04000 == 0x80) = true ∧
    answers (exec (.bbPutBit 1) { State.reset with bbLen := 32768 }) (fun t => t.errCode == 8) = true := by
  decide

/-- INBUF holds HELLO, ARG1 = 5. -/
def hello : State := { withBytes State.reset 0x03000 [0x48, 0x45, 0x4C, 0x4C, 0x4F] with arg1 := 5 }

/-- After QR_APPEND. -/
def helloAppended : State :=
  { hello with
    qrState := .dataAppended, segCount := 1
    segs := #v[⟨0, 5⟩, ⟨0, 0⟩, ⟨0, 0⟩, ⟨0, 0⟩, ⟨0, 0⟩, ⟨0, 0⟩, ⟨0, 0⟩, ⟨0, 0⟩] }

/-- After QR_SELVER. -/
def helloChosen : State := { helloAppended with qrState := .versionChosen, qrVer := 1 }

/-- R222. -/
theorem test_qrClear :
    answers (exec .qrClear helloChosen)
      (fun t => t.qrState == .empty && t.segCount == 0 && t.qrVer == 0 && t.segs[0] == ⟨0, 0⟩) = true := by
  decide

/-- R224. -/
theorem test_qrConfig :
    answers (exec (.qrConfig 8 0 0) State.reset) (fun t => t.cfgWord == 0x00008000) = true ∧
    answers (exec (.qrConfig 8 0 0) helloChosen) (fun t => t.errCode == 6) = true := by decide

/-- R226: the example, and a length that runs one byte over INBUF's end. -/
theorem test_qrAppend :
    answers (exec .qrAppend hello)
      (fun t => t.segCount == 1 && t.segs[0] == ⟨0, 5⟩ && t.qrState == .dataAppended) = true ∧
    answers (exec .qrAppend { hello with arg0 := 4095, arg1 := 2 }) (fun t => t.errCode == 5) = true := by
  decide

/-- One segment of `n` bytes at level M. -/
def segmentOf (n : Nat) : State :=
  { helloAppended with
    segs := #v[⟨0, BitVec.ofNat 13 n⟩, ⟨0, 0⟩, ⟨0, 0⟩, ⟨0, 0⟩, ⟨0, 0⟩, ⟨0, 0⟩, ⟨0, 0⟩, ⟨0, 0⟩] }

/-- R229: 14 bytes at level M are version 1, 15 bytes version 2. -/
theorem test_qrSelVer :
    answers (exec .qrSelVer (segmentOf 14)) (fun t => t.qrVer == 1) = true ∧
    answers (exec .qrSelVer (segmentOf 15)) (fun t => t.qrVer == 2) = true := by decide +kernel

/-- R238: the codeword sequence of HELLO at 1-M. -/
theorem test_qrCodewords :
    answers (exec .qrCodewords helloChosen) (fun t =>
      t.cwLenWord == 0x0010001A && t.bbLen == 128 &&
      t.ramBytes 0x05000 26 == [0x40, 0x54, 0x84, 0x54, 0xC4, 0xC4, 0xF0, 0xEC, 0x11, 0xEC, 0x11, 0xEC, 0x11,
        0xEC, 0x11, 0xEC, 0x23, 0x73, 0x23, 0x99, 0xEC, 0x08, 0xC9, 0xF7, 0x37, 0xDF]) = true := by
  decide +kernel

/-- R273. -/
theorem test_qrLayout :
    answers (exec (.qrLayout 0 4) helloChosen)
      (fun t => t.qrSize == 21 && t.qrState == .matrixFinal && t.qrMaskWord == 0x004) = true ∧
    answers (exec (.qrLayout 1 4) State.reset) (fun t => t.errCode == 6) = true := by decide +kernel

/-- R311, fixed mask: only CHOSEN and the state change. -/
theorem test_qrMaskSel :
    answers (exec .qrMaskSel { helloChosen with cfg := ⟨0, 0, 3⟩ })
      (fun t => t.qrMaskWord == 0x130 && t.qrState == .maskChosen && t.cwValid == false) = true := by decide

/-- R312: CHOSEN_VALID = 0; and the registers of a final layout with mask 4. -/
theorem test_qrFinal :
    answers (exec .qrFinal helloChosen) (fun t => t.errCode == 6) = true ∧
    answers (exec .qrFinal { helloChosen with chosen := 4, chosenValid := true })
      (fun t => t.qrMaskWord == 0x144 && t.qrState == .matrixFinal) = true := by decide +kernel

/-- R239 with MREQ = 4: the registers of the HELLO example. -/
theorem test_qrMake :
    answers (exec .qrMake { helloAppended with cfg := ⟨0, 0, 4⟩ })
      (fun t => t.qrVer == 1 && t.qrSize == 21 && t.qrMaskWord == 0x144 && t.qrState == .matrixFinal) = true := by
  decide +kernel

/-- R306: nothing to score; R303: the pattern of R303 as the middle row of a matrix is one occurrence. -/
theorem test_qrPenalty :
    answers (exec .qrPenalty State.reset) (fun t => t.errCode == 6) = true ∧
    finderCount [.dark, .light, .dark, .dark, .dark, .light, .dark] = 1 := by decide

/-- R301: the row `#######.........#####` adds 15, a line of 21 equal cells 19. -/
theorem test_runs :
    ((runLengths (List.replicate 7 .dark ++ List.replicate 9 .light ++ List.replicate 5 .dark)).map
      runPenalty).sum = 15 ∧ ((runLengths (List.replicate 21 .dark)).map runPenalty).sum = 19 := by decide

/-- R302: a 3 by 3 square of one colour adds 12. -/
theorem test_blocks : penalty2 (List.replicate 3 (List.replicate 3 .dark)) = 12 := by decide

/-- R300: the values at (1, 1) and (2, 3). -/
theorem test_maskFn :
    (List.range 8).map (fun m => maskFn (BitVec.ofNat 3 m) 1 1) =
      [true, false, false, false, true, false, true, false] ∧
    (List.range 8).map (fun m => maskFn (BitVec.ofNat 3 m) 2 3) =
      [false, true, true, false, true, true, true, false] := by decide

/-- R270: the zigzag of version 1 starts at the bottom right, right column first, and has 20 · 21 cells. -/
theorem test_zigzag :
    (zigzag 21).take 3 = [(20, 20), (20, 19), (19, 20)] ∧ (zigzag 21).length = 420 := by decide +kernel

/-- R236: the data part of the interleaving at 5-Q starts and ends as listed. -/
theorem test_interleave :
    let out := interleave (splitBlocks ((List.range 62).map (BitVec.ofNat 8)) (blockList 5 .Q))
    out.take 8 = [0, 15, 30, 46, 1, 16, 31, 47] ∧ out.drop 56 = [14, 29, 44, 60, 45, 61] := by decide +kernel

/-- R274. -/
theorem test_qrFmtBch :
    answers (exec (.qrFmtBch 1 0) State.reset) (fun t => t.res0 == 0x77C4) = true ∧
    answers (exec (.qrFmtBch 3 5) State.reset) (fun t => t.res0 == 0x2183) = true := by decide

/-- R275. -/
theorem test_qrVerBch :
    answers (exec (.qrVerBch 7) State.reset) (fun t => t.res0 == 0x07C94) = true ∧
    answers (exec (.qrVerBch 40) State.reset) (fun t => t.res0 == 0x28C69) = true := by decide

/-- R196. -/
theorem test_tblQuery :
    answers (exec (.tblQuery 3 5) State.reset) (fun t => t.res0 == 0x120F2102 && t.res1 == 0x08102202) = true := by
  decide

/-- R197. -/
theorem test_tblAlign :
    answers (exec (.tblAlign 7) State.reset) (fun t => t.res0 == 0x00261606 && t.res1 == 0x03000000) = true := by
  decide

/-- R191: DC and TC of the first and the last version. -/
theorem test_block_table :
    dataCount 1 .L = 19 ∧ dataCount 40 .H = 1276 ∧ totalCount 1 .Q = 26 ∧ totalCount 40 .M = 3706 := by decide

/-- R332. -/
theorem test_crcInit :
    answers (exec .crcInit { State.reset with crc := 0 }) (fun t => t.crc == 0xFFFF) = true := by decide

/-- R333. -/
theorem test_crcByte :
    answers (exec (.crcByte 0x41) State.reset) (fun t => t.crc == 0xB915) = true ∧
    answers (exec (.crcByte 0) State.reset) (fun t => t.crc == 0xE1F0) = true := by decide

/-- R331, R334: the standard vector; a range past INBUF's end. -/
theorem test_crcBuf :
    answers (exec .crcBuf { withBytes State.reset 0x03000 [0x31, 0x32, 0x33, 0x34, 0x35, 0x36, 0x37, 0x38, 0x39]
      with arg1 := 9 }) (fun t => t.crc == 0x29B1) = true ∧
    answers (exec .crcBuf { State.reset with arg0 := 4096 }) (fun t => t.errCode == 5) = true := by decide +kernel

/-! ### The host port -/

/-- R62: bytes of a little-endian word read back at an odd offset. -/
theorem test_little_endian :
    answers (hostAccess (.write .full 0x02000 0x44332211) State.reset)
      (fun t => answers (hostAccess (.read .byte 0x02001) t) (fun u => u.resp == .value 0x22)) = true := by decide

/-- R63, R66: a misaligned register access, a half-word at an odd offset, an unmapped offset, MATRIX's last
byte. -/
theorem test_address_map :
    targetOf .half 0x000 = .error .misaligned ∧ targetOf .half 0x02001 = .error .misaligned ∧
    targetOf .byte 0x02300 = .error .unmapped ∧ targetOf .byte 0x1B0FF = .ok (.win .matrix 0xB0FF) ∧
    targetOf .byte 0x1B100 = .error .unmapped := by decide

/-- R26, R27: IRQ_EN in CTRL bit 1, OVR in STATUS bit 3, QRSTATE in [6:4], CW_VALID in bit 7. -/
theorem test_register_words :
    { State.reset with irqEn := true }.ctrlWord = 2 ∧
    { State.reset with ovr := true, qrState := .matrixFinal, cwValid := true }.statusWord = 0xD8 ∧
    { State.reset with errCode := 5, errOpcode := 0x3B }.errcodeWord = 0x3B05 ∧
    { State.reset with layoutMask := 7, chosen := 4, chosenValid := true, layoutTest := true }.qrMaskWord =
      0x347 := by decide

/-! ### Witnesses: a concrete input meets the hypotheses of each statement (clause by clause) -/

/-- A state with one command pending. -/
def pending : State := State.reset.accept 0x01000280

/-- A state whose next turn is a host access. -/
def hostNext (a : HostAccess) : State := { State.reset with turns := [.host a] }

theorem witness_StepRunsDecodedCommand :
    (pending.busy = true ∧ pending.turns = [] ∧ decode pending.latch = .ok (.gfMul 2 0x80)) ∧
    ({ pending with turns := [.engine] }.turns = .engine :: []) ∧
    ((State.reset.accept 0x06000000).busy = true ∧
      decode (State.reset.accept 0x06000000).latch = .error .illegalCommand) ∧
    (State.reset.busy = false ∧ State.reset.turns = []) ∧ decode (encode .nop) = .ok .nop := by decide

theorem witness_CommandWriteAcceptedOrDropped :
    ((hostNext (.write .full 0x010 0)).busy = false ∧
      (hostNext (.write .full 0x010 0)).turns = .host (.write .full 0x010 0) :: []) ∧
    ({ pending with turns := [.host (.write .full 0x010 0)] }.busy = true) := by decide

theorem witness_FailedCommandLeavesNoTrace :
    ∃ t, exec (.gfLog 0) State.reset = .next t ∧ t.err = true := ⟨_, rfl, rfl⟩

theorem witness_PendingCommandOutlivesReads :
    let rs : List HostAccess := [.read .full 0x008, .read .byte 0x1B0FF]
    (∀ a ∈ rs, accessSafe true a = true ∧ ∃ width off, a = .read width off) ∧
      { pending with turns := rs.map .host }.busy = true := by
  refine ⟨?_, rfl⟩
  intro a ha
  simp only [List.mem_cons, List.not_mem_nil, or_false] at ha
  rcases ha with rfl | rfl
  · exact ⟨by decide, _, _, rfl⟩
  · exact ⟨by decide, _, _, rfl⟩

theorem witness_StepStopsExactlyOnUnsafeTurns :
    (hostNext (.read .byte 0x1B0FF)).turnSafe = true ∧ (hostNext (.read .byte 0x1B100)).turnSafe = false ∧
    (hostNext (.read .full 0x002)).turnSafe = false ∧
    { pending with turns := [.host (.write .full 0x014 0)] }.turnSafe = false := by decide

theorem witness_ReservedEncodingsAreIllegal :
    ([0x06000000, 0x0F000000, 0x14000000, 0x1F000000, 0x23000000, 0x2F000000, 0x3E000000, 0x3F000000,
      0x43000000, 0xFF000000] : List Word).map opField =
        [0x06, 0x0F, 0x14, 0x1F, 0x23, 0x2F, 0x3E, 0x3F, 0x43, 0xFF] ∧
    (∃ row ∈ opMap, row.opc = opField 0x01010000 ∧ row.fmt = .B ∧ f2Field 0x01010000 ≠ 0) ∧
    (∃ row ∈ opMap, row.opc = opField 0x03000100 ∧ row.fmt = .A ∧ f1Field 0x03000100 ≠ 0) ∧
    (∃ row ∈ opMap, row.opc = opField 0x00000001 ∧ row.fmt = .N ∧ f0Field 0x00000001 ≠ 0) := by
  decide

theorem witness_DecodeFailuresOfTheEngine :
    (∀ row ∈ opMap, row.opc ≠ opField (State.reset.accept 0x06000000).latch) ∧
    (∃ row ∈ opMap, row.opc = opField (State.reset.accept 0x01010000).latch ∧
      row.fmt.zeroFieldsOk (f2Field 0x01010000) (f1Field 0x01010000) (f0Field 0x01010000) = false) ∧
    decode (State.reset.accept 0x3B000040).latch = .ok (.qrVerBch 64) ∧
    (Instr.qrVerBch 64).wellFormed = false := by decide

/-- For GfDivAndInvUndoMultiplication, GfLogAndExpAreInverse and FieldLaws. -/
theorem witness_nonzero_byte : (1 : Byte) ≠ 0 ∧ (255 : Byte) ≠ 0 := by decide

theorem witness_TablesFollowTheRecurrence : (253 : Nat) < 254 ∧ gfExpTable 254 = 0x8E := by decide

theorem witness_PolyMulIsTheConvolution :
    let s := polyState [1, 2] [1, 3]
    (polyLenOk s.paLen = true ∧ polyLenOk s.pbLen = true ∧ (pmul s.polyA s.polyB).length ≤ 256) ∧
    polyLenOk State.reset.paLen = false ∧ polyLenOk { State.reset with paLen := 257 }.paLen = false ∧
    polyLenOk { polyState [1] [] with pbLen := 0 }.pbLen = false := by decide

theorem witness_PolyMulIsTooLong :
    let s := polyState [1, 0] (1 :: List.replicate 255 0)
    polyLenOk s.pbLen = true ∧ s.pbLen = 256 ∧ 256 < (pmul s.polyA s.polyB).length := by decide +kernel

theorem witness_PolyModIsTheRemainder :
    let s := polyState [5, 6, 7] [1, 0]
    (polyLenOk s.paLen = true ∧ polyLenOk s.pbLen = true ∧ isZero s.polyB = false) ∧
    isZero (polyState [1, 2] [0, 0]).polyB = true ∧ polyLenOk State.reset.pbLen = false := by decide

theorem witness_RsEccMakesACodeword :
    1 ≤ (1 : Byte).toNat ∧ 1 ≤ (255 : Byte).toNat ∧ polyLenOk (polyState [1] []).paLen = true ∧
      polyLenOk State.reset.paLen = false := by decide

theorem witness_PolynomialLaws :
    (∃ r, pmod [5, 6, 7] [1, 0] = .ok r) ∧ isZero [1, 0] = false := ⟨⟨_, rfl⟩, by decide⟩

/-- For TblQueryReportsTheBlocks, TblAlignReportsTheCenters, BchCommandsGiveCodewords, QrConfigWritesTheParameters. -/
theorem witness_operand_ranges :
    ((3 : Byte).toNat ≤ 3 ∧ 1 ≤ (1 : Byte).toNat ∧ (1 : Byte).toNat ≤ 40 ∧ (40 : Byte).toNat ≤ 40) ∧
    (7 : Byte).toNat ≤ 7 ∧ (63 : Byte).toNat ≤ 63 ∧ (8 : Byte).toNat ≤ 8 ∧ (0 : Byte).toNat ≤ 3 := by decide

/-- The premise of the clause about equal blocks: 6-L is the two equal blocks of 2×(86,68), 5-Q has two groups. -/
theorem witness_TblQueryReportsTheBlocks :
    blockList 6 (levelOf 1) = [(86, 68), (86, 68)] ∧
    (∀ p ∈ blockList 6 (levelOf 1), ∀ q ∈ blockList 6 (levelOf 1), p = q) ∧
    blockList 5 (levelOf 3) = [(33, 15), (33, 15), (34, 16), (34, 16)] := by decide

theorem reset_bytesInv : State.reset.BytesInv where
  wf := List.Pairwise.nil
  inRam := fun c hc => absurd hc (List.not_mem_nil)
  pr := fun k hk => absurd hk (Nat.not_lt_zero k)
  bb := fun k hk => absurd hk (Nat.not_lt_zero _)
  bbTail := fun p _ hp => absurd hp (Nat.not_lt_zero p)
  cw := fun h => absurd h (by decide)

/-- Four bits, 0100, in the buffer. -/
def fourBits : State := { withBytes State.reset 0x04000 [0x40] with bbLen := 4 }

theorem fourBits_bytesInv : fourBits.BytesInv where
  wf := by decide
  inRam := by decide
  pr := fun k hk => absurd hk (Nat.not_lt_zero k)
  bb := by
    intro k hk
    have hk : 8 * k < 4 := hk
    obtain rfl : k = 0 := by omega
    decide
  bbTail := by
    intro p h1 h2
    have h1 : 4 ≤ p := h1
    have h2 : p < 8 := h2
    obtain rfl | rfl | rfl | rfl : p = 4 ∨ p = 5 ∨ p = 6 ∨ p = 7 := by omega
    all_goals decide
  cw := fun h => absurd h (by decide)

theorem witness_BitBufferCommands :
    (fourBits.BytesInv ∧ (32 : Byte).toNat ≤ 32 ∧ fourBits.bbLen.toNat + (32 : Byte).toNat ≤ 32768) ∧
    (State.reset.BytesInv ∧ (1 : Byte).toNat ≤ 1 ∧ State.reset.bbLen.toNat < 32768) ∧
    32768 < { State.reset with bbLen := 32768 }.bbLen.toNat + (1 : Byte).toNat ∧
    32768 ≤ { State.reset with bbLen := 32768 }.bbLen.toNat :=
  ⟨⟨fourBits_bytesInv, by decide, by decide⟩, ⟨reset_bytesInv, by decide, by decide⟩, by decide, by decide⟩

theorem witness_PutsConcatenate :
    ∃ t u, appendBits (bitsOf 5 3) State.reset = .ok t ∧ appendBits (bitsOf 1 2) t = .ok u :=
  ⟨_, _, rfl, rfl⟩

theorem witness_CrcCommandsFoldTheBytes :
    ({ State.reset with arg0 := 4095, arg1 := 1 }.arg0.toNat ≤ 4095 ∧ 4095 + (1 : Word).toNat ≤ 4096) ∧
    4095 < { State.reset with arg0 := 4096 }.arg0.toNat ∧
    4096 < (4095 : Word).toNat + (2 : Word).toNat ∧
    (∃ t u, exec .crcBuf ((hello.setArg0 0).setArg1 2) = .next t ∧
      exec .crcBuf ((t.setArg0 2).setArg1 3) = .next u) :=
  ⟨by decide, by decide, by decide, _, _, rfl, rfl⟩

theorem witness_CrcLaws : ([1, 2] : List Byte).length = ([3, 4] : List Byte).length := rfl

/-- Also for EveryCommandCompletes' two clauses: a command that fails and one that succeeds. -/
theorem witness_BuilderStateTable :
    (Instr.qrSelVer.wellFormed = true ∧ ∃ t, exec .qrSelVer State.reset = .next t ∧ t.errCode = 6) ∧
    (∃ t, exec .qrClear State.reset = .next t ∧ t.err = false) := ⟨⟨rfl, _, rfl, rfl⟩, _, rfl, rfl⟩

theorem witness_QrConfigWritesTheParameters :
    State.reset.qrState = .empty ∧ helloAppended.qrState = .dataAppended ∧
      ¬(helloChosen.qrState = .empty ∨ helloChosen.qrState = .dataAppended) := by decide

theorem witness_QrAppendHoldsTheSegment :
    (hello.qrState ≠ .matrixFinal ∧ hello.arg0.toNat ≤ 4095 ∧ hello.arg0.toNat + hello.arg1.toNat ≤ 4096 ∧
      hello.segCount.toNat < 8) ∧
    { hello with qrState := .matrixFinal }.qrState = .matrixFinal ∧
    4096 < { hello with arg0 := 4095, arg1 := 2 }.arg0.toNat + (2 : Word).toNat ∧
    4095 < { hello with arg0 := 4096 }.arg0.toNat ∧ 8 ≤ { hello with segCount := 8 }.segCount.toNat := by decide

theorem witness_QrSelVerTakesTheLeastVersion :
    ((segmentOf 15).cfg.vreq = 0 ∧ (segmentOf 15).fits 2 ∧ ∀ u, 1 ≤ u → u < 2 → ¬(segmentOf 15).fits u) ∧
    ((segmentOf 4096).qrState = .dataAppended ∧ ∀ v, 1 ≤ v → v ≤ 40 → ¬(segmentOf 4096).fits v) ∧
    { segmentOf 15 with cfg := ⟨40, 0, 8⟩ }.cfg.vreq ≠ 0 := by
  refine ⟨⟨rfl, ?_, ?_⟩, ⟨rfl, ?_⟩, by decide⟩
  · unfold State.fits
    decide +kernel
  · intro u h1 h2
    obtain rfl : u = 1 := by omega
    unfold State.fits
    decide +kernel
  · have h : ∀ v ∈ List.range' 1 40, 8 * dataCount v (levelOf (segmentOf 4096).cfg.ecc) <
        bitLen (segmentOf 4096).segLens v := by decide +kernel
    intro v h1 h2
    have := h v (by simp only [List.mem_range'_1]; omega)
    unfold State.fits
    omega

theorem helloChosen_regInv : helloChosen.RegInv := by constructor <;> decide

theorem helloAppended_regInv : helloAppended.RegInv := by constructor <;> decide

theorem helloChosen_canBuild : helloChosen.canBuild := by
  refine .inr ?_
  unfold State.fits
  decide +kernel

/-- Fifteen bytes at version 1, one too many. -/
def tooSmall : State := { segmentOf 15 with qrState := .versionChosen, qrVer := 1 }

theorem tooSmall_cannotBuild : ¬tooSmall.canBuild := by
  rintro (h | h)
  · exact absurd h (by decide)
  · exact absurd h (by unfold State.fits; decide +kernel)

/-- The same with a mask chosen. -/
def tooSmallMasked : State := { tooSmall with qrState := .maskChosen, chosenValid := true }

/-- Also for a block of each group at 5-Q, the last byte of a long one among them (R236). -/
theorem witness_CodewordSequence :
    (List.replicate 62 (0 : Byte)).length = dataCount 5 .Q ∧ (blockList 5 .Q)[0]? = some (33, 15) ∧
    (blockList 5 .Q)[3]? = some (34, 16) ∧ columnIndex ((blockList 5 .Q).map (·.2)) 3 15 = 61 := by decide

theorem witness_QrCodewordsBuildsTheSequence :
    (helloChosen.RegInv ∧ helloChosen.qrState.hasVersion = true ∧ helloChosen.fits helloChosen.qrVer.toNat) ∧
    (tooSmall.RegInv ∧ tooSmall.qrState.hasVersion = true ∧ ¬tooSmall.fits tooSmall.qrVer.toNat) := by
  refine ⟨⟨helloChosen_regInv, rfl, ?_⟩, ⟨by constructor <;> decide, rfl, ?_⟩⟩
  · unfold State.fits
    decide +kernel
  · unfold State.fits
    decide +kernel

theorem witness_DataCodewordsCarryTheSegments : ∃ d, buildData [[0x48]] 1 .M = .ok d := ⟨_, rfl⟩

/-- HELLO with mask 4 chosen. -/
def helloMasked : State := { helloChosen with qrState := .maskChosen, chosen := 4, chosenValid := true }

theorem helloMasked_regInv : helloMasked.RegInv := by constructor <;> decide

theorem witness_QrLayoutPutsTheMatrix :
    helloChosen.RegInv ∧ helloChosen.qrState.hasVersion = true ∧ helloChosen.canBuild ∧
      (1 : Byte).toNat ≤ 1 ∧ (7 : Byte).toNat ≤ 7 ∧
      tooSmall.qrState.hasVersion = true ∧ ¬tooSmall.canBuild :=
  ⟨helloChosen_regInv, rfl, helloChosen_canBuild, by decide, by decide, rfl, tooSmall_cannotBuild⟩

/-- A light matrix of version 1. -/
def allLight : State :=
  { helloChosen with qrSize := 21, matrix := List.replicate 21 (List.replicate 21 .light) }

theorem allLight_resolved : resolved 21 allLight.matrix := by
  unfold resolved
  decide +kernel

theorem witness_QrPenaltyScoresTheMatrix :
    allLight.RegInv ∧ allLight.MatrixInv ∧ allLight.qrSize ≠ 0 ∧ resolved 21 allLight.matrix :=
  ⟨by constructor <;> decide, .inr ⟨by decide, allLight_resolved⟩, by decide, allLight_resolved⟩

/-- Also for FinalMatrixScoresAsTheWinner, whose hypotheses are the first four. -/
theorem witness_QrMaskSelChoosesTheBestMask :
    (helloChosen.RegInv ∧ helloChosen.qrState.hasVersion = true ∧ helloChosen.cfg.mreq = 8 ∧
      helloChosen.canBuild) ∧ { helloChosen with cfg := ⟨0, 0, 7⟩ }.cfg.mreq.toNat ≤ 7 ∧
      (tooSmall.qrState.hasVersion = true ∧ tooSmall.cfg.mreq = 8 ∧ ¬tooSmall.canBuild) :=
  ⟨⟨helloChosen_regInv, rfl, rfl, helloChosen_canBuild⟩, by decide, rfl, rfl, tooSmall_cannotBuild⟩

theorem witness_QrFinalPutsTheChosenMatrix :
    (helloMasked.RegInv ∧ helloMasked.qrState.hasVersion = true ∧ helloMasked.chosenValid = true ∧
      helloMasked.canBuild) ∧
    (tooSmallMasked.qrState.hasVersion = true ∧ tooSmallMasked.chosenValid = true ∧
      ¬tooSmallMasked.canBuild) :=
  ⟨⟨helloMasked_regInv, rfl, rfl, helloChosen_canBuild⟩, rfl, rfl, tooSmall_cannotBuild⟩

theorem witness_QrMakeIsThePipeline : helloAppended.qrState = .dataAppended := rfl

theorem witness_QrMakeFinishesTheSymbol :
    (helloAppended.RegInv ∧ helloAppended.canMake) ∧
    { helloAppended with cfg := ⟨1, 0, 8⟩ }.canMake ∧ (helloMasked.RegInv ∧ helloMasked.canMake) := by
  refine ⟨⟨helloAppended_regInv, .inl ⟨rfl, rfl, 1, by decide, by decide, ?_⟩⟩,
    .inr (.inl ⟨rfl, by decide, ?_⟩), helloMasked_regInv, .inr (.inr ⟨rfl, helloChosen_canBuild⟩)⟩
  · unfold State.fits
    decide +kernel
  · unfold State.fits
    decide +kernel

/-- Data of 15 bytes with version 1 fixed. The other failures' inputs are those of QrSelVerTakesTheLeastVersion
(no version fits) and of QrLayoutPutsTheMatrix (a version chosen, nothing to build). -/
theorem witness_QrMakeFails :
    let s : State := { segmentOf 15 with cfg := ⟨1, 0, 8⟩ }
    s.qrState = .dataAppended ∧ s.cfg.vreq ≠ 0 ∧ ¬s.fits s.cfg.vreq.toNat := by
  refine ⟨rfl, by decide, ?_⟩
  unfold State.fits
  decide +kernel

/-- For LayoutResolvesEveryCell, FunctionPatternsStand, FormatAndVersionWordsStand, DataCellsCarryTheCodewords. -/
theorem witness_versions : (1 ≤ 1 ∧ 1 ≤ 40) ∧ (1 ≤ 40 ∧ 40 ≤ 40) ∧ 7 ≤ 40 := by decide

theorem witness_FunctionPatternsStand :
    (6 ∈ alignCenters 7 ∧ 22 ∈ alignCenters 7 ∧ ¬(6 = 4 * 7 + 10)) ∧ 8 ≤ 4 * 1 + 8 := by decide

/-- The first visited cell of version 1 carries a data bit, the corner cell belongs to a finder. -/
theorem witness_DataCellsCarryTheCodewords :
    ((zigzag 21).filter (fun p => decide (Grid.get (functionPatterns 1 0 0) p.1 p.2 = .unset)))[0]? =
      some (20, 20) ∧ Grid.get (functionPatterns 1 0 0) 0 0 ≠ .unset := by decide +kernel

theorem witness_MatrixFinalIsImmutable :
    ∃ t, exec .qrMake { helloChosen with qrState := .matrixFinal } = .next t := ⟨_, rfl⟩

theorem witness_SoftResetRestoresTheRegisters :
    (hostNext (.write .full 0x004 3)).turns = .host (.write .full 0x004 3) :: [] ∧
      (3 : Word).getLsbD 0 = true := by decide

theorem witness_HostWritesOfRegisters : (2 : Word).getLsbD 0 = false ∧ State.reset.busy = false := by decide

theorem witness_InterruptLine :
    (∃ t, exec .nop State.reset = .next t) ∧ (2 : Word).getLsbD 1 = true := ⟨⟨_, rfl⟩, by decide⟩

/-- The steps at which the line falls (three events), stays high (a read), rises (a completion, and IRQ_EN). -/
theorem witness_InterruptLineSteps :
    let up : State := { State.reset with irqEn := true, done := true }
    ([{ up with turns := [.host (.write .full 0x008 2)] }, { up with turns := [.host (.write .full 0x010 0)] },
      { up with turns := [.host (.write .full 0x004 0)] }, { up with turns := [.host (.read .full 0x008)] }]).map
        (fun s => (s.irq, answers (step s) (fun t => t.irq))) =
      [(true, false), (true, false), (true, false), (true, true)] ∧
    ([{ pending with irqEn := true },
      { State.reset with done := true, turns := [.host (.write .full 0x004 2)] }]).map
        (fun s => (s.irq, answers (step s) (fun t => t.irq))) = [(false, true), (false, true)] := by decide

theorem witness_ReadOnlyWritesAreIgnored :
    targetOf .full (0x000 : Offset).toNat = .ok (.reg .id) ∧
    targetOf .full (0x1FC : Offset).toNat = .ok (.reg .reserved) ∧
    Reg.reserved ∉ [Reg.ctrl, .status, .cmd, .arg0, .arg1, .paLen, .pbLen] ∧
    targetOf .byte (0x022FF : Offset).toNat = .ok (.win .pr 255) := by decide

theorem witness_WindowWriteThenRead :
    (State.reset.busy = false ∧ 252 % Width.full.bytes = 0 ∧ 252 + Width.full.bytes ≤ Window.size .pa) ∧
    4094 % Width.half.bytes = 0 ∧ 4094 + Width.half.bytes ≤ Window.size .inbuf ∧
    255 + Width.byte.bytes ≤ Window.size .pb := by decide

theorem witness_ReadsChangeNothing :
    targetOf .full (0x01C : Offset).toNat = .ok (.reg .res0) ∧ pending.busy = true ∧
    decode pending.latch = .ok (.gfMul 2 0x80) ∧ Target.writtenBy (.gfMul 2 0x80) (.reg .res0) = true ∧
    Target.writtenBy (.gfMul 2 0x80) (.reg .crc) = false ∧ Instr.crcInit.wellFormed = true ∧
    writesReg .crcInit .crc = true ∧ writesWindow .polyMul .pr = true := by decide

/-- R390: while GF_MUL is pending CRC reads as it stands and RES0 takes a free value; while NOP, or a word that
fails with RangeError, is pending RES0 reads as it stands. -/
theorem test_busy_reads :
    answers (hostAccess (.read .full 0x048) pending) (fun t => t.resp == .value 0xFFFF) = true ∧
    answers (hostAccess (.read .full 0x01C) pending) (fun t => t.draws == 1) = true ∧
    answers (hostAccess (.read .full 0x01C) (State.reset.accept 0)) (fun t => t.resp == .value 0) = true ∧
    answers (hostAccess (.read .byte 0x02200) (State.reset.accept 0x13000000)) (fun t => t.draws == 0) = true := by
  decide

theorem witness_AccessesThatStop :
    ([0x200, 0x0FFF, 0x1200, 0x1FFF, 0x2300, 0x2FFF, 0x6000, 0xFFFF, 0x1B100, 0x1FFFF] : List Offset).map
        (fun off => targetOf .byte off.toNat) = List.replicate 10 (.error .unmapped) ∧
    ((0x1FF : Offset).toNat < 0x200 ∧ (0x1FF : Offset).toNat % 4 ≠ 0 ∧ Width.half ≠ .full) ∧
    (Window.holds .cw (0x05FFE : Offset).toNat = true ∧ (0x05FFE : Offset).toNat % Width.full.bytes ≠ 0) ∧
    (pending.busy = true ∧ 4092 % Width.full.bytes = 0 ∧ 4092 + Width.full.bytes ≤ Window.size .inbuf) := by
  decide

theorem witness_CommandFrame :
    (∃ t, exec .qrSelVer State.reset = .next t) ∧ writesReg .qrMake .res0 = false ∧
      writesWindow .qrMake .inbuf = false ∧ writesBuild .crcBuf = false :=
  ⟨⟨_, rfl⟩, by decide, by decide, by decide⟩

/-- For RegInvKept, BytesInvKept, MatrixInvKept and StatusInvKept. -/
theorem witness_invariants :
    helloChosen.RegInv ∧ (fourBits.RegInv ∧ fourBits.BytesInv) ∧ (allLight.MatrixInv ∧ allLight.RegInv) ∧ pending.StatusInv ∧
      (∃ t, step helloChosen = .next t) ∧ (∃ t, step pending = .next t) ∧ (∃ t, step allLight = .next t) ∧
      (∃ t, step fourBits = .next t) :=
  ⟨helloChosen_regInv, ⟨by constructor <;> decide, fourBits_bytesInv⟩,
    ⟨witness_QrPenaltyScoresTheMatrix.2.1, witness_QrPenaltyScoresTheMatrix.1⟩,
    by constructor <;> decide, ⟨_, rfl⟩, ⟨_, rfl⟩, ⟨_, rfl⟩, ⟨_, rfl⟩⟩

end Sys2Proof.Tests
end

/-! ## The outcome of a command, and what a predicate must survive to survive a step -/

namespace Sys2Proof.Machine

/-! ### Commands as outcomes -/

/-- The outcome of a command: the state its writes stand in, or its error. `exec` completes it. -/
def outcome : Instr → State → Except ErrorCode State
  | .nop, s => .ok s
  | .gfMul a b, s => resByte s (.ok (gfMul a b))
  | .gfDiv a b, s => resByte s (gfDiv a b)
  | .gfInv b, s => resByte s (gfInv b)
  | .gfLog a, s => resByte s (if a = 0 then .error .invalidArgument else .ok (BitVec.ofNat 8 (gfLogTable a)))
  | .gfExp e, s => resByte s (.ok (gfExpTable (e.toNat % 255)))
  | .polyMul, s => polyMulOutcome s
  | .polyMod, s => polyModOutcome s
  | .rsGen t, s => resPoly s (.ok (gen t.toNat))
  | .rsEcc t, s => ifLegal (fieldIn 1 255 t) (rsEccOutcome t s)
  | .bbClear, s => .ok s.clearBb
  | .bbPut n, s => ifLegal (fieldIn 0 32 n) (bbPutOutcome n.toNat s)
  | .bbPutBit b, s => ifLegal (fieldIn 0 1 b) (appendBit (b == 1) s)
  | .qrClear, s => clearOutcome s
  | .qrConfig m e v, s => ifLegal (fieldIn 0 8 m && fieldIn 0 3 e && fieldIn 0 40 v) (configOutcome m e v s)
  | .qrAppend, s => appendOutcome s
  | .qrSelVer, s => selVerOutcome s
  | .qrCodewords, s => codewordsOutcome s
  | .qrLayout t m, s =>
      ifLegal (fieldIn 0 1 t && fieldIn 0 7 m) (layoutOutcome (t == 1) (m.setWidth 3) s)
  | .qrPenalty, s => penaltyOutcome s
  | .qrMaskSel, s => maskSelOutcome s
  | .qrFinal, s => finalOutcome s
  | .qrMake, s => makeOutcome s
  | .qrFmtBch e m, s => ifLegal (fieldIn 0 3 e && fieldIn 0 7 m)
      (.ok (s.setRes0 (BitVec.ofNat 32 (bchFormat (e.setWidth 2) (m.setWidth 3)))))
  | .qrVerBch v, s => ifLegal (fieldIn 0 63 v) (.ok (s.setRes0 (BitVec.ofNat 32 (bchVersion v.toNat))))
  | .tblQuery e v, s => ifLegal (fieldIn 0 3 e && fieldIn 1 40 v)
      (.ok (s.setRes (queryWords v.toNat (levelOf (e.setWidth 2))).1
        (queryWords v.toNat (levelOf (e.setWidth 2))).2))
  | .tblAlign v, s =>
      ifLegal (fieldIn 1 40 v) (.ok (s.setRes (alignWords v.toNat).1 (alignWords v.toNat).2))
  | .crcInit, s => .ok (s.setCrc 0xFFFF)
  | .crcByte b, s => .ok (s.setCrc (crcStep s.crc b))
  | .crcBuf, s => crcBufOutcome s

/-- Every command's meaning completes its outcome (R123). -/
theorem exec_eq_complete (i : Instr) (s : State) : exec i s = complete s (outcome i s) := by
  cases i <;> rfl

/-- A command ends with its outcome's state completed, or with its outcome's error recorded. -/
theorem exec_next {i : Instr} {s t : State} (h : exec i s = .next t) :
    (∃ u, outcome i s = .ok u ∧ t = u.succeed) ∨ (∃ c, outcome i s = .error c ∧ t = s.fail c) :=
  complete_cases (exec_eq_complete i s ▸ h)

/-- What the four commands QR_MAKE performs keep, QR_MAKE keeps (R239). -/
theorem makeOutcome_keeps {P : State → Prop} (selVer : ∀ {s t}, P s → selVerOutcome s = .ok t → P t)
    (codewords : ∀ {s t}, P s → codewordsOutcome s = .ok t → P t)
    (maskSel : ∀ {s t}, P s → maskSelOutcome s = .ok t → P t)
    (finish : ∀ {s t}, P s → finalOutcome s = .ok t → P t) {s t : State} (h : P s)
    (hs : makeOutcome s = .ok t) : P t := by
  obtain ⟨-, a, b, c, ha, hb, hc, ht⟩ := makeOutcome_ok hs
  have pa : P a := by
    obtain ⟨-, ha⟩ | ⟨-, rfl⟩ := ha
    · exact selVer h ha
    · exact h
  have pb : P b := by
    obtain ⟨-, hb⟩ | ⟨-, rfl⟩ := hb
    · exact codewords pa hb
    · exact pa
  have pc : P c := by
    obtain ⟨-, hc⟩ | ⟨-, rfl⟩ := hc
    · exact maskSel pb hc
    · exact pb
  exact finish pc ht

/-! ### Steps -/

/-- What a predicate must survive to survive a step: each effect of a host access (spec/20_memory.md R73-R76),
each command, and the error of a word that does not decode. -/
structure KeptByTurns (P : State → Prop) : Prop where
  setTurns : ∀ {s} ts, P s → P (s.setTurns ts)
  respond : ∀ {s} r, P s → P (s.respond r)
  drawn : ∀ {s}, P s → P s.drawn
  softReset : ∀ {s}, P s → P s.softReset
  setIrqEn : ∀ {s} b, P s → P (s.setIrqEn b)
  clearStatus : ∀ {s} v, P s → P (s.clearStatus v)
  overrun : ∀ {s}, P s → P s.overrun
  accept : ∀ {s} w, P s → P (s.accept w)
  setArg0 : ∀ {s} v, P s → P (s.setArg0 v)
  setArg1 : ∀ {s} v, P s → P (s.setArg1 v)
  setPaLen : ∀ {s} v, P s → P (s.setPaLen v)
  setPbLen : ∀ {s} v, P s → P (s.setPbLen v)
  writeRam : ∀ {s} {w : Window} {k : Nat} {bytes : List Byte}, w = .pa ∨ w = .pb ∨ w = .inbuf →
    k + bytes.length ≤ w.size → P s → P (s.writeRam (w.base + k) bytes)
  fail : ∀ {s} c, P s → P (s.fail c)
  exec : ∀ {i s t}, P s → exec i s = .next t → P t

/-- An admitted access of a window lies inside it. -/
theorem targetOf_win_inside {width : Width} {off : Nat} {w : Window} {k : Nat}
    (h : targetOf width off = .ok (.win w k)) : k + width.bytes ≤ w.size := by
  simp only [targetOf] at h
  split at h
  · split at h <;> simp at h
  · split at h
    · simp at h
    · rename_i x hx
      have hb : x.base ≤ off := by
        have := List.find?_some hx
        simp only [Window.holds, Bool.and_eq_true, decide_eq_true_eq] at this
        exact this.1
      split at h
      · rename_i hin
        obtain ⟨rfl, rfl⟩ : x = w ∧ off - x.base = k := by simpa using h
        omega
      · simp at h

@[simp] theorem length_lowBytes (v : Word) (n : Nat) : (lowBytes v n).length = n := by simp [lowBytes]

namespace KeptByTurns
variable {P : State → Prop} (hP : KeptByTurns P)
include hP

theorem writeCtrl {s : State} (v : Word) (h : P s) : P (s.writeCtrl v) := by
  unfold State.writeCtrl
  split
  · exact hP.softReset h
  · exact hP.setIrqEn _ h

theorem writeCmd {s : State} (v : Word) (h : P s) : P (s.writeCmd v) := by
  unfold State.writeCmd
  split
  · exact hP.overrun h
  · exact hP.accept v h

theorem writeTarget {s : State} {width : Width} {off : Nat} {tg : Target} (v : Word)
    (ht : targetOf width off = .ok tg) (h : P s) : P (s.writeTarget width v tg) := by
  have ram {w : Window} {k : Nat} (hw : w = .pa ∨ w = .pb ∨ w = .inbuf) (hin : k + width.bytes ≤ w.size) :
      P (s.writeRam (w.base + k) (lowBytes v width.bytes)) :=
    hP.writeRam hw (by simpa using hin) h
  unfold State.writeTarget
  split
  · exact hP.writeCtrl v h
  · exact hP.clearStatus v h
  · exact hP.writeCmd v h
  · exact hP.setArg0 v h
  · exact hP.setArg1 v h
  · exact hP.setPaLen v h
  · exact hP.setPbLen v h
  · exact ram (.inl rfl) (targetOf_win_inside ht)
  · exact ram (.inr (.inl rfl)) (targetOf_win_inside ht)
  · exact ram (.inr (.inr rfl)) (targetOf_win_inside ht)
  · exact h

theorem hostAccess {a : HostAccess} {s t : State} (h : P s) (hst : hostAccess a s = .next t) : P t := by
  obtain ⟨width, off, tg, rfl, ht, rfl⟩ | ⟨width, off, v, tg, rfl, ht, -, rfl⟩ := hostAccess_next hst
  · obtain ⟨-, hr⟩ | ⟨-, v, hr⟩ := hostRead_cases s width tg
    · exact hr ▸ hP.respond _ h
    · exact hr ▸ hP.drawn (hP.respond _ h)
  · exact hP.respond _ (hP.writeTarget v ht h)

theorem engineTurn {s t : State} (h : P s) (hst : engineTurn s = .next t) : P t := by
  obtain ⟨-, rfl⟩ | ⟨-, i, -, hx⟩ | ⟨-, c, -, rfl⟩ := engineTurn_next hst
  · exact h
  · exact hP.exec h hx
  · exact hP.fail c h

/-- What survives every turn survives a step. -/
theorem step {s t : State} (h : P s) (hst : step s = .next t) : P t := by
  obtain ⟨-, he⟩ | ⟨ts, -, he⟩ | ⟨a, ts, -, ha⟩ := step_next hst
  · exact hP.engineTurn h he
  · exact hP.engineTurn (hP.setTurns ts h) he
  · exact hP.hostAccess (hP.setTurns ts h) ha

end KeptByTurns

/-! ### BUSY, DONE, ERR and ERRCODE -/

theorem statusInv_succeed (s : State) : s.succeed.StatusInv := by constructor <;> simp

theorem statusInv_fail (s : State) (c : ErrorCode) : (s.fail c).StatusInv where
  pending := fun h => absurd h Bool.false_ne_true
  code_le := errorNumber_le c
  reported := fun _ => errorNumber_ne_zero c
  opcode := fun h => absurd h (errorNumber_ne_zero c)

/-- Whatever a command's outcome is, its completion reports it consistently (R123). -/
theorem statusInv_exec {i : Instr} {s t : State} (h : exec i s = .next t) : t.StatusInv := by
  obtain ⟨u, -, rfl⟩ | ⟨c, -, rfl⟩ := exec_next h
  · exact statusInv_succeed u
  · exact statusInv_fail s c

theorem State.StatusInv.clearStatus {s : State} (h : s.StatusInv) (v : Word) : (s.clearStatus v).StatusInv where
  pending := fun hb => by
    obtain ⟨hd, he, hc⟩ := h.pending hb
    simp [hd, he, hc]
  code_le := h.code_le
  reported := fun he => h.reported (Bool.and_eq_true_iff.mp he).1
  opcode := h.opcode

theorem statusInv_keptByTurns : KeptByTurns State.StatusInv where
  setTurns := fun _ h => { h with }
  respond := fun _ h => { h with }
  drawn := fun h => { h with }
  softReset := fun _ => by constructor <;> simp
  setIrqEn := fun _ h => { h with }
  clearStatus := fun v h => h.clearStatus v
  overrun := fun h => { h with }
  accept := fun _ _ => by constructor <;> simp
  setArg0 := fun _ h => { h with }
  setArg1 := fun _ h => { h with }
  setPaLen := fun _ h => { h with }
  setPbLen := fun _ h => { h with }
  writeRam := fun _ _ h => { h with }
  fail := fun c _ => statusInv_fail _ c
  exec := fun _ hx => statusInv_exec hx

/-- Settles O58: every turn keeps the invariant, a completion establishing it anew. -/
theorem statusInvKept : Obligations.StatusInvKept :=
  fun _ _ hs hst => statusInv_keptByTurns.step hs hst

end Sys2Proof.Machine

/-! ## The frame of a command -/

namespace Sys2Proof.Machine

/-- From `s` to `t` nothing changes but the registers of `R` (and STATUS and ERRCODE, which a completion writes),
the windows of `W`, and, where `B` holds, the hidden state of a build. A field that an operation's definition
shows to be kept is filled in by its default. -/
structure Keeps (R : Reg → Bool) (W : Window → Bool) (B : Bool) (s t : State) : Prop where
  irqEn : t.irqEn = s.irqEn := by rfl
  ovr : t.ovr = s.ovr := by rfl
  latch : t.latch = s.latch := by rfl
  turns : t.turns = s.turns := by rfl
  resp : t.resp = s.resp := by rfl
  draws : t.draws = s.draws := by rfl
  regs : ∀ r, r ≠ .status → r ≠ .errcode → R r = false → t.readReg r = s.readReg r := by
    intro r _ _ _
    cases r <;> simp_all [State.readReg, State.ctrlWord, State.cfgWord, State.qrMaskWord, State.cwLenWord,
      invalidated, built, laid, scored, isMscore, isSegReg]
  ram : ∀ a, (∀ w, W w = true → w.holds a = false) → t.ramByte a = s.ramByte a := by intros; rfl
  matrix : W .matrix = false → t.matrix = s.matrix ∧ t.qrSize = s.qrSize := by exact fun _ => ⟨rfl, rfl⟩
  build : B = false → t.cwValid = s.cwValid ∧ t.chosen = s.chosen ∧ t.chosenValid = s.chosenValid ∧
    t.qrState = s.qrState := by exact fun _ => ⟨rfl, rfl, rfl, rfl⟩

/-- The one window. -/
abbrev onlyWindow (w : Window) : Window → Bool := fun x => x == w

/-- No window. -/
abbrev noWindow : Window → Bool := fun _ => false

/-- No register. -/
abbrev noReg : Reg → Bool := fun _ => false

/-- The windows of the address map do not overlap (spec/20_memory.md R61). -/
theorem windows_disjoint {w x : Window} (h : w ≠ x) : w.base + w.size ≤ x.base ∨ x.base + x.size ≤ w.base := by
  cases w <;> cases x <;> simp_all [Window.base, Window.size]

theorem holds_eq_false {w : Window} {a : Nat} : w.holds a = false ↔ a < w.base ∨ w.base + w.size ≤ a := by
  simp only [Window.holds, Bool.and_eq_false_iff, decide_eq_false_iff_not]
  omega

/-- An offset inside a window lies in no other. -/
theorem holds_other {w x : Window} {k : Nat} (h : w ≠ x) (hk : k < w.size) : x.holds (w.base + k) = false := by
  have := windows_disjoint h
  rw [holds_eq_false]
  omega

namespace Keeps
variable {R R' : Reg → Bool} {W W' : Window → Bool} {B B' : Bool} {s t u : State}

theorem refl (s : State) : Keeps R W B s s where
  regs := fun _ _ _ _ => rfl

theorem trans (h : Keeps R W B s t) (h' : Keeps R W B t u) : Keeps R W B s u where
  irqEn := h'.irqEn.trans h.irqEn
  ovr := h'.ovr.trans h.ovr
  latch := h'.latch.trans h.latch
  turns := h'.turns.trans h.turns
  resp := h'.resp.trans h.resp
  draws := h'.draws.trans h.draws
  regs := fun r h1 h2 hr => (h'.regs r h1 h2 hr).trans (h.regs r h1 h2 hr)
  ram := fun a ha => (h'.ram a ha).trans (h.ram a ha)
  matrix := fun hw => ⟨(h'.matrix hw).1.trans (h.matrix hw).1, (h'.matrix hw).2.trans (h.matrix hw).2⟩
  build := fun hb => by
    obtain ⟨h1, h2, h3, h4⟩ := h.build hb
    obtain ⟨h1', h2', h3', h4'⟩ := h'.build hb
    exact ⟨h1'.trans h1, h2'.trans h2, h3'.trans h3, h4'.trans h4⟩

/-- A frame with more listed follows from one with less; between a command's lists and its operations' the
definitions decide. -/
theorem mono (h : Keeps R W B s t)
    (hR : ∀ r, R r = true → R' r = true := by simp +contextual [writesReg])
    (hW : ∀ w, W w = true → W' w = true := by simp +contextual [writesWindow])
    (hB : B = true → B' = true := by simp [writesBuild]) : Keeps R' W' B' s t where
  irqEn := h.irqEn
  ovr := h.ovr
  latch := h.latch
  turns := h.turns
  resp := h.resp
  draws := h.draws
  regs := fun r h1 h2 hr => h.regs r h1 h2 (Bool.eq_false_of_not_eq_true fun h => by simp [hR r h] at hr)
  ram := fun a ha => h.ram a fun w hw => ha w (hW w hw)
  matrix := fun hw => h.matrix (Bool.eq_false_of_not_eq_true fun h => by simp [hW _ h] at hw)
  build := fun hb => h.build (Bool.eq_false_of_not_eq_true fun h => by simp [hB h] at hb)

/-- A window outside the list reads as before. -/
theorem windowByte (h : Keeps R W B s t) {w : Window} {k : Nat} (hk : k < w.size) (hw : W w = false) :
    t.windowByte w k = s.windowByte w k := by
  have ram : t.ramByte (w.base + k) = s.ramByte (w.base + k) :=
    h.ram _ fun x hx => holds_other (by rintro rfl; simp [hw] at hx) hk
  cases w with
  | exp => rfl
  | log => rfl
  | matrix => simp only [State.windowByte, State.matrixByte, (h.matrix hw).1, (h.matrix hw).2]
  | pa | pb | pr | inbuf | bb | cw => exact ram

end Keeps

/-! ### The frame of each operation -/

section
variable (s : State)

/-- A byte outside the window a `setWindow` replaces. -/
theorem read_setWindow_of_holds (m : Memory) {x : Window} {l : List Byte} {a : Nat} (hx : x.holds a = false) :
    (m.setWindow x.base x.size l).read a = m.read a :=
  Memory.read_setWindow_outside (holds_eq_false.mp hx)

/-- The generation of a byte outside the windows whose generation changes. -/
theorem genOf_outside {s t : State} {W : Window → Bool} {a : Nat} (ha : ∀ w, W w = true → w.holds a = false)
    (hp : W .pr = false → t.prGen = s.prGen) (hb : W .bb = false → t.bbGen = s.bbGen)
    (hc : W .cw = false → t.cwGen = s.cwGen) : t.genOf a = s.genOf a := by
  have unlisted {w : Window} (h : w.base ≤ a ∧ a < w.base + w.size) : W w = false := by
    cases hw : W w with
    | false => rfl
    | true =>
      have := holds_eq_false.mp (ha w hw)
      omega
  simp only [State.genOf]
  split
  · exact hp (unlisted ‹_›)
  · split
    · exact hb (unlisted ‹_›)
    · split
      · exact hc (unlisted ‹_›)
      · rfl

theorem keeps_setRes0 (v : Word) : Keeps (· == .res0) noWindow false s (s.setRes0 v) := {}
theorem keeps_setRes (v w : Word) : Keeps (fun r => r == .res0 || r == .res1) noWindow false s (s.setRes v w) := {}
theorem keeps_setCrc (c : BitVec 16) : Keeps (· == .crc) noWindow false s (s.setCrc c) := {}
theorem keeps_setCfg (c : QrCfg) : Keeps (· == .qrCfg) noWindow false s (s.setCfg c) := {}
theorem keeps_setVersion (v : BitVec 6) : Keeps (· == .qrVer) noWindow false s (s.setVersion v) := {}
theorem keeps_clearSegs : Keeps isSegReg noWindow false s s.clearSegs := {}
theorem keeps_addSeg (g : Segment) : Keeps isSegReg noWindow false s (s.addSeg g) := {}
theorem keeps_succeed : Keeps noReg noWindow false s s.succeed := {}
theorem keeps_fail (c : ErrorCode) : Keeps noReg noWindow false s (s.fail c) := {}
theorem keeps_storeScores (l : List Nat) : Keeps isMscore noWindow false s (s.storeScores l) := {}
theorem keeps_storePenalty (n a b c d : Nat) : Keeps scored noWindow false s (s.storePenalty n a b c d) := {}

theorem keeps_setQrState (q : QrState) : Keeps noReg noWindow true s (s.setQrState q) where
  build := by simp

theorem keeps_choose (m : BitVec 3) : Keeps laid noWindow true s (s.choose m) where
  build := by simp

theorem keeps_storeMatrix (g : Grid) (n : Nat) (m : BitVec 3) (b : Bool) :
    Keeps laid (onlyWindow .matrix) false s (s.storeMatrix g n m b) where
  matrix := by simp

theorem keeps_storePr (p : List Byte) : Keeps (· == .prLen) (onlyWindow .pr) false s (s.storePr p) where
  ram := fun a ha => ramByte_congr (read_setWindow_of_holds _ (ha .pr rfl))
    (genOf_outside ha (by simp) (fun _ => rfl) (fun _ => rfl))

theorem keeps_clearBb : Keeps (· == .bbLen) (onlyWindow .bb) false s s.clearBb where
  ram := fun a ha => ramByte_congr (read_setWindow_of_holds _ (ha .bb rfl))
    (genOf_outside ha (fun _ => rfl) (by simp) (fun _ => rfl))

theorem keeps_storeBit {k : Nat} (hk : k < 4096) (b : Byte) (n : Nat) :
    Keeps (· == .bbLen) (onlyWindow .bb) false s (s.storeBit k b n) where
  ram := fun a ha => by
    have := holds_eq_false.mp (ha .bb rfl)
    exact ramByte_congr (Memory.read_write_other _ _ (by simp only [Window.base, Window.size] at *; omega)) rfl

theorem keeps_invalidate :
    Keeps invalidated (fun w => w == .cw || w == .matrix) true s s.invalidate where
  ram := fun a ha => ramByte_congr (read_setWindow_of_holds _ (ha .cw rfl))
    (genOf_outside ha (fun _ => rfl) (fun _ => rfl) (by simp))
  matrix := by simp
  build := by simp

theorem keeps_storeCodewords (d c : List Byte) (dc tc : Nat) :
    Keeps built (fun w => w == .bb || w == .cw) true s (s.storeCodewords d c dc tc) where
  ram := fun a ha => ramByte_congr
    ((read_setWindow_of_holds _ (ha .cw rfl)).trans (read_setWindow_of_holds _ (ha .bb rfl)))
    (genOf_outside ha (fun _ => rfl) (by simp) (by simp))
  build := by simp

end
end Sys2Proof.Machine

namespace Sys2Proof.Machine

/-! ### The frame of each outcome -/

section
variable {s t : State}

/-- The frame of a command: its own lists of Machine/Writes.lean. -/
abbrev KeepsBy (i : Instr) : State → State → Prop := Keeps (writesReg i) (writesWindow i) (writesBuild i)

theorem keeps_appendBit {b : Bool} (h : appendBit b s = .ok t) :
    Keeps (· == .bbLen) (onlyWindow .bb) false s t := by
  obtain ⟨hlen, v, rfl⟩ := appendBit_ok h
  exact keeps_storeBit s (by omega) _ _

theorem keeps_appendBits {bs : List Bool} (h : appendBits bs s = .ok t) :
    Keeps (· == .bbLen) (onlyWindow .bb) false s t := by
  induction bs generalizing s with
  | nil =>
    obtain rfl : s = t := by simpa using h
    exact .refl s
  | cons b bs ih =>
    obtain ⟨u, hu, ht⟩ := appendBits_cons_ok h
    exact (keeps_appendBit hu).trans (ih ht)

theorem keeps_buildCodewords (h : buildCodewords s = .ok t) : KeepsBy .qrCodewords s t := by
  obtain ⟨d, c, -, -, rfl⟩ := buildCodewords_ok h
  exact keeps_storeCodewords s _ _ _ _

theorem keeps_ensureCw (h : ensureCw s = .ok t) : KeepsBy .qrCodewords s t := by
  obtain ⟨-, rfl⟩ | ⟨-, hb⟩ := ensureCw_ok h
  · exact .refl _
  · exact keeps_buildCodewords hb

theorem keeps_layOut (s : State) (m : BitVec 3) (b : Bool) :
    Keeps laid (onlyWindow .matrix) false s (s.layOut m b) := keeps_storeMatrix s _ _ _ _

theorem keeps_clear (h : clearOutcome s = .ok t) : KeepsBy .qrClear s t := by
  obtain rfl : _ = t := by simpa [clearOutcome] using h
  exact (((keeps_invalidate s).mono.trans (keeps_setVersion _ _).mono).trans (keeps_clearSegs _).mono).trans
    (keeps_setQrState _ _).mono

theorem keeps_append (h : appendOutcome s = .ok t) : KeepsBy .qrAppend s t := by
  obtain ⟨-, -, -, rfl⟩ := appendOutcome_ok h
  exact (((keeps_addSeg s _).mono.trans (keeps_invalidate _).mono).trans (keeps_setVersion _ _).mono).trans
    (keeps_setQrState _ _).mono

theorem keeps_selectedVersion (s : State) (v : BitVec 6) : KeepsBy .qrSelVer s (s.selectedVersion v) :=
  ((keeps_invalidate s).mono.trans (keeps_setVersion _ _).mono).trans (keeps_setQrState _ _).mono

theorem keeps_selVer (h : selVerOutcome s = .ok t) : KeepsBy .qrSelVer s t := by
  obtain ⟨-, ⟨-, v, -, rfl⟩ | ⟨-, rfl⟩⟩ := selVerOutcome_ok h
  · exact keeps_selectedVersion s _
  · exact keeps_selectedVersion s _

theorem keeps_layout {m : BitVec 3} {b : Bool} (h : layoutOutcome b m s = .ok t) (x y : Byte) :
    KeepsBy (.qrLayout x y) s t := by
  obtain ⟨-, u, hu, rfl⟩ := layoutOutcome_ok h
  exact ((keeps_ensureCw hu).mono.trans (keeps_layOut u _ _).mono).trans (keeps_setQrState _ _).mono

theorem keeps_selectAuto (s : State) : KeepsBy .qrMaskSel s s.selectAuto :=
  (((keeps_storeScores s _).mono.trans (keeps_storePenalty _ _ _ _ _ _).mono).trans
    (keeps_storeMatrix _ _ _ _ _).mono).trans (keeps_choose _ _).mono

theorem keeps_maskSel (h : maskSelOutcome s = .ok t) : KeepsBy .qrMaskSel s t := by
  obtain ⟨-, ⟨-, u, hu, rfl⟩ | ⟨-, rfl⟩⟩ := maskSelOutcome_ok h
  · exact ((keeps_ensureCw hu).mono.trans (keeps_selectAuto u)).trans (keeps_setQrState _ _).mono
  · exact (keeps_choose s _).mono.trans (keeps_setQrState _ _).mono

theorem keeps_final (h : finalOutcome s = .ok t) : KeepsBy .qrFinal s t := by
  obtain ⟨-, -, u, hu, rfl⟩ := finalOutcome_ok h
  exact ((keeps_ensureCw hu).mono.trans (keeps_layOut u _ _).mono).trans (keeps_setQrState _ _).mono

theorem keeps_make (h : makeOutcome s = .ok t) : KeepsBy .qrMake s t :=
  makeOutcome_keeps (P := KeepsBy .qrMake s)
    (fun k h => k.trans ((keeps_selVer h).mono
      (hR := fun r => by cases r <;> simp [writesReg, invalidated, built, laid])))
    (fun k h => k.trans (keeps_buildCodewords (codewordsOutcome_ok h).2).mono)
    (fun k h => k.trans (keeps_maskSel h).mono)
    (fun k h => k.trans (keeps_final h).mono) (.refl s) h

theorem keeps_resByte {r : Except ErrorCode Byte} (h : resByte s r = .ok t) :
    Keeps (· == .res0) noWindow false s t := by
  obtain ⟨b, -, rfl⟩ := resByte_ok h
  exact keeps_setRes0 s _

/-- The frame of every command's outcome. -/
theorem keeps_outcome {i : Instr} (h : outcome i s = .ok t) : KeepsBy i s t := by
  cases i with
  | nop => exact Except.ok.inj h ▸ .refl s
  | gfMul => exact Except.ok.inj h ▸ keeps_setRes0 s _
  | gfDiv => exact keeps_resByte h
  | gfInv => exact keeps_resByte h
  | gfLog => exact keeps_resByte h
  | gfExp => exact Except.ok.inj h ▸ keeps_setRes0 s _
  | polyMul => exact (polyMulOutcome_ok h).2.2.2 ▸ keeps_storePr s _
  | polyMod =>
    obtain ⟨-, -, r, -, rfl⟩ := polyModOutcome_ok h
    exact keeps_storePr s r
  | rsGen => exact Except.ok.inj h ▸ keeps_storePr s _
  | rsEcc =>
    obtain ⟨-, e, -, rfl⟩ := rsEccOutcome_ok (ifLegal_ok h).2
    exact keeps_storePr s e
  | bbClear => exact Except.ok.inj h ▸ keeps_clearBb s
  | bbPut => exact keeps_appendBits (bbPutOutcome_ok (ifLegal_ok h).2).2
  | bbPutBit => exact keeps_appendBit (ifLegal_ok h).2
  | qrClear => exact keeps_clear h
  | qrConfig => exact (configOutcome_ok (ifLegal_ok h).2).2 ▸ keeps_setCfg s _
  | qrAppend => exact keeps_append h
  | qrSelVer => exact keeps_selVer h
  | qrCodewords => exact keeps_buildCodewords (codewordsOutcome_ok h).2
  | qrLayout x y => exact keeps_layout (ifLegal_ok h).2 x y
  | qrPenalty => exact (penaltyOutcome_ok h).2 ▸ keeps_storePenalty s _ _ _ _ _
  | qrMaskSel => exact keeps_maskSel h
  | qrFinal => exact keeps_final h
  | qrMake => exact keeps_make h
  | qrFmtBch => exact Except.ok.inj (ifLegal_ok h).2 ▸ keeps_setRes0 s _
  | qrVerBch => exact Except.ok.inj (ifLegal_ok h).2 ▸ keeps_setRes0 s _
  | tblQuery => exact Except.ok.inj (ifLegal_ok h).2 ▸ keeps_setRes s _ _
  | tblAlign => exact Except.ok.inj (ifLegal_ok h).2 ▸ keeps_setRes s _ _
  | crcInit => exact Except.ok.inj h ▸ keeps_setCrc s _
  | crcByte => exact Except.ok.inj h ▸ keeps_setCrc s _
  | crcBuf => exact (crcBufOutcome_ok h).2 ▸ keeps_setCrc s _

/-- The frame of every command. -/
theorem keeps_exec {i : Instr} (h : exec i s = .next t) : KeepsBy i s t := by
  obtain ⟨u, hu, rfl⟩ | ⟨c, -, rfl⟩ := exec_next h
  · exact (keeps_outcome hu).trans (keeps_succeed u).mono
  · exact (keeps_fail s c).mono

end

/-- Settles O55: the operations a command's outcome is made of write within the command's own lists. -/
theorem commandFrame : Obligations.CommandFrame := by
  intro i s t h
  have k := keeps_exec h
  exact ⟨k.irqEn, k.ovr, k.latch, k.turns, k.resp, k.draws, k.regs, fun w j hj hw => k.windowByte hj hw, k.build⟩

/-! ### MatrixFinal -/

/-- In MatrixFinal every command that builds ends with an error, but QR_CLEAR (R221). -/
theorem outcome_matrixFinal {i : Instr} {s : State} (hs : s.qrState = .matrixFinal) (hi : i ≠ .qrClear)
    (hb : writesBuild i = true) : ∃ c, outcome i s = .error c := by
  cases hr : outcome i s with
  | error c => exact ⟨c, rfl⟩
  | ok t =>
    have noVersion : s.qrState.hasVersion = false := by rw [hs]; rfl
    have notData : ¬(s.qrState = .dataAppended ∨ s.qrState.hasVersion = true) := by simp [hs, QrState.hasVersion]
    exfalso
    cases i with
    | qrClear => exact hi rfl
    | qrAppend => exact (appendOutcome_ok hr).1 hs
    | qrSelVer => exact notData (selVerOutcome_ok hr).1
    | qrCodewords => exact notData (.inr (codewordsOutcome_ok hr).1)
    | qrLayout => exact notData (.inr (layoutOutcome_ok (ifLegal_ok hr).2).1)
    | qrMaskSel => exact notData (.inr (maskSelOutcome_ok hr).1)
    | qrFinal => exact notData (.inr (finalOutcome_ok hr).1)
    | qrMake => exact notData (makeOutcome_ok hr).1
    | _ => exact Bool.false_ne_true hb

/-- A command that does not build does not write MATRIX either. -/
theorem writesMatrix_of_build {i : Instr} (h : writesBuild i = false) : writesWindow i .matrix = false := by
  cases i <;> simp_all [writesBuild, writesWindow]

/-- Settles O46: a command that builds fails in MatrixFinal, and the frame of every other keeps the matrix. -/
theorem matrixFinalIsImmutable : Obligations.MatrixFinalIsImmutable := by
  intro i s t hs hi h
  cases hb : writesBuild i with
  | false =>
    have k := keeps_exec h
    obtain ⟨hm, hn⟩ := k.matrix (writesMatrix_of_build hb)
    exact ⟨hm, hn, (k.build hb).2.2.2.trans hs⟩
  | true =>
    obtain ⟨c, hc⟩ := outcome_matrixFinal hs hi hb
    rw [exec_eq_complete, hc, complete_error] at h
    obtain rfl : s.fail c = t := by simpa using h
    exact ⟨rfl, rfl, hs⟩

end Sys2Proof.Machine

namespace Sys2Proof.Machine

/-! ## Host accesses of registers and reads -/

/-- A write of a register, where it is no HostHazard. -/
theorem hostAccess_write_reg {off : Offset} {r : Reg} {s : State} (v : Word)
    (ht : targetOf .full off.toNat = .ok (.reg r)) (hs : (s.busy && (Target.reg r).isOperand) = false) :
    hostAccess (.write .full off v) s = .next ((s.writeTarget .full v (.reg r)).respond .wrote) := by
  simp [hostAccess, ht, hs]

/-- An admitted read. -/
theorem hostAccess_read {width : Width} {off : Offset} {tg : Target} {s : State}
    (ht : targetOf width off.toNat = .ok tg) :
    hostAccess (.read width off) s = .next (s.hostRead width tg) := by
  simp [hostAccess, ht]

/-- A write of CTRL with SRST = 0. -/
theorem writeCtrl_of_no_srst {v : Word} (s : State) (h : v.getLsbD 0 = false) :
    s.writeCtrl v = s.setIrqEn (v.getLsbD 1) :=
  if_neg (by rw [h]; exact Bool.false_ne_true)

/-- Settles O49: the address map gives the register, and the write of each register its effect. -/
theorem hostWritesOfRegisters : Obligations.HostWritesOfRegisters := by
  refine ⟨fun s v h0 => ?_, fun s v => ?_, fun s v hb => ⟨?_, ?_, ?_, ?_⟩⟩
  · rw [hostAccess_write_reg (r := .ctrl) v rfl (by simp [Target.isOperand])]
    exact congrArg (fun t => Host.Outcome.next (State.respond t .wrote)) (writeCtrl_of_no_srst s h0)
  · exact hostAccess_write_reg (r := .status) v rfl (by simp [Target.isOperand])
  · exact hostAccess_write_reg (r := .arg0) v rfl (by simp [hb])
  · exact hostAccess_write_reg (r := .arg1) v rfl (by simp [hb])
  · exact hostAccess_write_reg (r := .paLen) v rfl (by simp [hb])
  · exact hostAccess_write_reg (r := .pbLen) v rfl (by simp [hb])

theorem hostRead_of_not_inFlight {s : State} {t : Target} (width : Width) (h : s.inFlight t = false) :
    s.hostRead width t = s.respond (.value (s.readTarget width t)) := by
  simp [State.hostRead, h]

/-- A read of a target in flight answers a value of the access's width and counts the draw. -/
theorem hostRead_of_inFlight {s : State} {t : Target} (width : Width) (h : s.inFlight t = true) :
    ∃ v : Word, v.toNat < 2 ^ (8 * width.bytes) ∧
      s.hostRead width t = { s with resp := .value v, draws := s.draws + 1 } := by
  refine ⟨BitVec.ofNat 32 ((Config.busyRead s.draws).toNat % 2 ^ (8 * width.bytes)), ?_, ?_⟩
  · rw [BitVec.toNat_ofNat]
    exact (Nat.mod_le _ _).trans_lt (Nat.mod_lt _ (by positivity))
  · simp only [State.hostRead, h, if_true]
    rfl

/-- No command writes a register that R76 does not list. -/
theorem writesReg_unlisted (i : Instr) {r : Reg} (h : listedReg r = false) : writesReg i r = false := by
  cases r with
  | id | ctrl | status | errcode | cmd | arg0 | arg1 | paLen | pbLen | reserved => cases i <;> rfl
  | _ => exact Bool.noConfusion h

/-- A well-formed command that writes the register, where R76 lists it. -/
def regWriter : Reg → Instr
  | .res0 | .res1 => .tblAlign 1
  | .prLen => .polyMul
  | .bbLen => .bbClear
  | .qrCfg => .qrConfig 0 0 0
  | .crc => .crcInit
  | .segCount | .segOff _ | .segLen _ => .qrClear
  | _ => .qrMake

/-- A well-formed command that writes the window, where R76 lists it. -/
def windowWriter : Window → Instr
  | .pr => .polyMul
  | _ => .qrMake

theorem regWriter_writes {r : Reg} (h : listedReg r = true) :
    (regWriter r).wellFormed = true ∧ writesReg (regWriter r) r = true := by
  cases r <;> simp_all [listedReg, regWriter, Instr.wellFormed, writesReg, built, laid, scored, isMscore, isSegReg]

theorem windowWriter_writes {w : Window} (h : listedWindow w = true) :
    (windowWriter w).wellFormed = true ∧ writesWindow (windowWriter w) w = true := by
  cases w <;> simp_all [listedWindow, windowWriter, Instr.wellFormed, writesWindow]

theorem listedWindow_of_writesWindow {i : Instr} {w : Window} (h : writesWindow i w = true) :
    listedWindow w = true := by
  cases i <;> cases w <;> simp_all [writesWindow, listedWindow]

/-- No command writes ID, CTRL, STATUS or ERRCODE, so none is ever in flight. -/
theorem inFlight_of_unlisted (s : State) {r : Reg} (h : listedReg r = false) : s.inFlight (.reg r) = false := by
  cases hf : s.inFlight (.reg r) with
  | false => rfl
  | true =>
    obtain ⟨-, i, -, -, hw⟩ := inFlight_iff.mp hf
    exact absurd hw (by simp [Target.writtenBy, writesReg_unlisted i h])

theorem hostAccess_read_unlisted {off : Offset} {r : Reg} (s : State)
    (ht : targetOf .full off.toNat = .ok (.reg r)) (hr : listedReg r = false) :
    hostAccess (.read .full off) s = .next (s.respond (.value (s.readReg r))) := by
  rw [hostAccess_read ht, hostRead_of_not_inFlight _ (inFlight_of_unlisted s hr)]
  rfl

/-- Settles O53: a read goes by whether its target is in flight; each listed register and window has a command
that writes it, and no other has one. -/
theorem readsChangeNothing : Obligations.ReadsChangeNothing := by
  refine ⟨fun s width off tg ht hw => ?_, fun s width off tg i ht hb hi hwf hw => ?_, fun r => ⟨fun h => ?_, ?_⟩,
    fun w => ⟨fun h => ?_, ?_⟩, fun s => ⟨?_, ?_, ?_, ?_⟩⟩
  · have : s.inFlight tg = false := by
      cases hf : s.inFlight tg with
      | false => rfl
      | true =>
        obtain ⟨hb, i, hi, hwf, hwr⟩ := inFlight_iff.mp hf
        simp [hw i hb hi hwf] at hwr
    rw [hostAccess_read ht, hostRead_of_not_inFlight width this]
  · obtain ⟨v, hv, hr⟩ := hostRead_of_inFlight width (inFlight_iff.mpr ⟨hb, i, hi, hwf, hw⟩)
    exact ⟨v, hv, by rw [hostAccess_read ht, hr]⟩
  · exact ⟨regWriter r, regWriter_writes h⟩
  · rintro ⟨i, -, h⟩
    exact Bool.of_not_eq_false fun hr => by simp [writesReg_unlisted i hr] at h
  · exact ⟨windowWriter w, windowWriter_writes h⟩
  · rintro ⟨i, -, h⟩
    exact listedWindow_of_writesWindow h
  · exact hostAccess_read_unlisted (r := .id) s rfl rfl
  · exact hostAccess_read_unlisted (r := .ctrl) s rfl rfl
  · exact hostAccess_read_unlisted (r := .status) s rfl rfl
  · exact hostAccess_read_unlisted (r := .errcode) s rfl rfl

end Sys2Proof.Machine

namespace Sys2Proof.Machine

/-! ## The lengths of polynomials (spec/42_poly_rs.md R160-R166) -/

/-! ### The tables are inverse to each other -/

theorem gfLogTable_gfExpTable {k : Nat} (h : k < 255) : gfExpTable k ≠ 0 ∧ gfLogTable (gfExpTable k) = k := by
  have all : ∀ k < 255, gfExpTable k ≠ 0 ∧ gfLogTable (gfExpTable k) = k := by decide +kernel
  exact all k h

theorem gfExpTable_gfLogTable {a : Byte} (h : a ≠ 0) : gfLogTable a < 255 ∧ gfExpTable (gfLogTable a) = a := by
  have all : ∀ n < 256, BitVec.ofNat 8 n ≠ 0 →
      gfLogTable (BitVec.ofNat 8 n) < 255 ∧ gfExpTable (gfLogTable (BitVec.ofNat 8 n)) = BitVec.ofNat 8 n := by
    decide +kernel
  simpa using all a.toNat a.isLt (by simpa using h)

/-- The quotient times the divisor is the dividend (R144). -/
theorem gfMul_gfQuot {d : Byte} (hd : d ≠ 0) (a : Byte) : gfMul d (gfQuot a d) = a := by
  by_cases ha : a = 0
  · simp [gfQuot, gfMul, ha]
  · obtain ⟨hla, hea⟩ := gfExpTable_gfLogTable ha
    obtain ⟨hld, -⟩ := gfExpTable_gfLogTable hd
    obtain ⟨hq, hlq⟩ := gfLogTable_gfExpTable (Nat.mod_lt (gfLogTable a + 255 - gfLogTable d) (by omega))
    have exponent : (gfLogTable d + (gfLogTable a + 255 - gfLogTable d) % 255) % 255 = gfLogTable a := by omega
    simp only [gfQuot, ha, if_false, gfMul, hd, hq, or_self, hlq, exponent, hea]

/-! ### Normal forms -/

/-- A normal form is [0] or starts with a nonzero coefficient (R161). -/
theorem polyNorm_cases (p : Poly) :
    polyNorm p = [0] ∨ ∃ c q, c ≠ 0 ∧ polyNorm p = c :: q ∧ (c :: q).length ≤ p.length := by
  unfold polyNorm
  split
  · exact .inl rfl
  · rename_i hne
    obtain ⟨c, q, hq⟩ := List.exists_cons_of_ne_nil hne
    refine .inr ⟨c, q, ?_, hq, hq ▸ List.length_dropWhile_le _ p⟩
    have := List.head?_dropWhile_not (fun c : Byte => c == 0) p
    rw [hq] at this
    simpa using this

theorem length_polyNorm_le (p : Poly) : (polyNorm p).length ≤ max 1 p.length := by
  obtain h | ⟨c, q, -, h, hl⟩ := polyNorm_cases p
  · simp [h]
  · rw [h]
    omega

theorem polyNorm_zero_cons (p : Poly) : polyNorm (0 :: p) = polyNorm p := by
  simp [polyNorm]

/-- A normal form that is not zero starts with a nonzero coefficient. -/
theorem headD_polyNorm_ne_zero {p : Poly} (h : isZero (polyNorm p) = false) : (polyNorm p).headD 0 ≠ 0 := by
  obtain hp | ⟨c, q, hc, hp, -⟩ := polyNorm_cases p
  · rw [hp] at h
    exact absurd h (by decide)
  · simpa [hp] using hc

/-! ### Products and remainders -/

@[simp] theorem length_xorAt (i : Nat) (row acc : Poly) : (xorAt i row acc).length = acc.length := by
  induction acc generalizing i row with
  | nil => cases i <;> cases row <;> rfl
  | cons a acc ih => cases i <;> cases row <;> simp [xorAt, ih]

@[simp] theorem length_pmulLoop (q : Poly) (i : Nat) (p r : Poly) : (pmulLoop q i p r).length = r.length := by
  induction p generalizing i r with
  | nil => rfl
  | cons c p ih => simp [pmulLoop, ih]

theorem length_pmul_le (p q : Poly) : (pmul p q).length ≤ max 1 p.length + max 1 q.length - 1 := by
  have := length_polyNorm_le p
  have := length_polyNorm_le q
  simp only [pmul]
  split
  · simp only [List.length_singleton]
    omega
  · simp only [length_pmulLoop, List.length_replicate]
    omega

theorem length_gen_le (t : Nat) : (gen t).length ≤ t + 1 := by
  induction t with
  | zero => simp [gen]
  | succ t ih =>
    have := length_pmul_le (gen t) [1, gfExpTable (t % 255)]
    simp only [gen, List.length_cons, List.length_nil] at *
    omega

/-- A pass of the division loop cancels the leading coefficient (R164). -/
theorem pmodPass_cons {d : Poly} (hd : d.headD 0 ≠ 0) (a : Byte) (p : Poly) :
    ∃ r : Poly, r.length = p.length ∧ pmodPass (a :: p) d = polyNorm r := by
  cases d with
  | nil => exact absurd rfl hd
  | cons c q =>
    refine ⟨xorAt 0 (q.map fun x => gfMul x (gfQuot a c)) p, by simp, ?_⟩
    have cancel : a ^^^ gfMul c (gfQuot a c) = 0 := by rw [gfMul_gfQuot (d := c) hd]; exact BitVec.xor_self
    simp only [pmodPass, List.headD_cons, List.map_cons, xorAt, cancel, polyNorm_zero_cons]

theorem length_pmodPass_le (p d : Poly) : (pmodPass p d).length ≤ max 1 p.length := by
  simpa [pmodPass] using length_polyNorm_le (xorAt 0 (d.map _) p)

/-- The loop never lengthens the polynomial. -/
theorem length_pmodLoop_le (d : Poly) (fuel : Nat) (p : Poly) :
    (pmodLoop d fuel p).length ≤ max 1 p.length := by
  induction fuel generalizing p with
  | zero => exact le_max_right _ _
  | succ fuel ih =>
    rw [pmodLoop]
    split
    · have := ih (pmodPass p d)
      have := length_pmodPass_le p d
      omega
    · exact le_max_right _ _

theorem pmodLoop_zero (d : Poly) (fuel : Nat) : pmodLoop d fuel [0] = [0] := by
  cases fuel <;> rfl

/-- With a pass per coefficient the loop ends at zero or below the divisor's length. -/
theorem pmodLoop_done {d : Poly} (hd : d.headD 0 ≠ 0) {fuel : Nat} {p : Poly} (hf : p.length ≤ fuel) :
    isZero (pmodLoop d fuel p) = true ∨ (pmodLoop d fuel p).length < d.length := by
  induction fuel generalizing p with
  | zero =>
    have := List.length_pos_of_ne_nil (l := d) (by rintro rfl; exact hd rfl)
    exact .inr (by rw [pmodLoop]; omega)
  | succ fuel ih =>
    rw [pmodLoop]
    split
    · cases p with
      | nil => simp_all
      | cons a p =>
        obtain ⟨r, hr, hp⟩ := pmodPass_cons hd a p
        rw [hp]
        obtain h0 | ⟨c, q, -, hq, hl⟩ := polyNorm_cases r
        · rw [h0, pmodLoop_zero]
          exact .inl rfl
        · refine ih ?_
          simp only [hq, List.length_cons] at *
          omega
    · rename_i hc
      simp only [Bool.and_eq_true, Bool.not_eq_true', decide_eq_true_eq, not_and, not_le] at hc
      cases hz : isZero p with
      | true => exact .inl rfl
      | false => exact .inr (hc hz)

/-- A remainder is no longer than the dividend; it is zero or shorter than the divisor. -/
theorem pmod_ok {p d r : Poly} (h : pmod p d = .ok r) :
    r.length ≤ max 1 p.length ∧ (isZero r = true ∨ r.length < (polyNorm d).length) := by
  simp only [pmod] at h
  split at h
  · simp at h
  · rename_i hd
    obtain rfl : _ = r := by simpa using h
    refine ⟨?_, pmodLoop_done (headD_polyNorm_ne_zero (by simpa using hd)) le_rfl⟩
    have := length_pmodLoop_le (polyNorm d) (polyNorm p).length (polyNorm p)
    have := length_polyNorm_le p
    omega

/-- The ECC codewords are exactly `t` (R166). -/
theorem length_rsecc {data e : List Byte} {t : Nat} (h : rsecc data t = .ok e) : e.length = t := by
  simp only [rsecc] at h
  split at h
  · simp at h
  · rename_i r hr
    split at h
    · obtain rfl : _ = e := by simpa using h
      simp
    · obtain rfl : _ = e := by simpa using h
      have := length_polyNorm_le (gen t)
      have := length_gen_le t
      obtain ⟨-, hz | hl⟩ := pmod_ok hr
      · contradiction
      · simp only [List.length_append, List.length_replicate]
        omega

end Sys2Proof.Machine

namespace Sys2Proof.Machine

/-! ## The relations between the builder's registers -/

/-- The block table's codewords fit the fields of CW_LEN (R190, R39). -/
theorem codewordCounts_lt {v : Nat} (hv : v ≤ 40) (lv : Level) :
    dataCount v lv < 4096 ∧ totalCount v lv < 4096 := by
  have all : ∀ lv ∈ [Level.L, .M, .Q, .H], ∀ v < 41, dataCount v lv < 4096 ∧ totalCount v lv < 4096 := by
    decide +kernel
  exact all lv (by cases lv <;> simp) v (by omega)

/-- The version an automatic selection takes is one of 1 to 40 (R228). -/
theorem selectVersion_range {lens : List Nat} {lv : Level} {v : Nat} (h : selectVersion lens lv = some v) :
    1 ≤ v ∧ v ≤ 40 := by
  have := List.mem_of_find?_eq_some h
  simp only [List.mem_range'_1] at this
  omega

/-- A range of INBUF, as a segment's two fields hold it (R226). -/
theorem segment_inside {off len : Word} (h : inbufRangeOk off len = true) :
    (off.setWidth 12).toNat + (len.setWidth 13).toNat ≤ 4096 := by
  simp only [inbufRangeOk, Bool.and_eq_true, decide_eq_true_eq] at h
  simp only [Config.inbufSize] at h
  simp only [BitVec.toNat_setWidth]
  omega

/-- A codeword cache held or built leaves it valid and the builder's state and version as they were (R238). -/
theorem ensureCw_kept {s t : State} (h : ensureCw s = .ok t) :
    t.cwValid = true ∧ t.qrState = s.qrState ∧ t.qrVer = s.qrVer := by
  obtain ⟨hv, rfl⟩ | ⟨-, hb⟩ := ensureCw_ok h
  · exact ⟨hv, rfl, rfl⟩
  · obtain ⟨d, c, -, -, rfl⟩ := buildCodewords_ok hb
    exact ⟨rfl, rfl, rfl⟩

namespace State.RegInv
variable {s t : State}

/-! ### Facts -/

theorem ver_ne_zero (h : s.RegInv) (hv : s.qrState.hasVersion = true) : s.qrVer ≠ 0 := by
  rw [ne_eq, h.ver_chosen]
  rintro (hq | hq) <;> simp [hq, QrState.hasVersion] at hv

theorem segCount_ne_zero (h : s.RegInv) (hq : s.qrState ≠ .empty) : s.segCount ≠ 0 :=
  fun h0 => hq (h.segs_held.mp h0)

/-! ### Operations that leave the builder alone -/

theorem succeed (h : s.RegInv) : s.succeed.RegInv := { h with }

theorem fail (h : s.RegInv) (c : ErrorCode) : (s.fail c).RegInv := { h with }

theorem setRes0 (h : s.RegInv) (v : Word) : (s.setRes0 v).RegInv := { h with }

theorem setRes (h : s.RegInv) (v w : Word) : (s.setRes v w).RegInv := { h with }

theorem setCrc (h : s.RegInv) (c : BitVec 16) : (s.setCrc c).RegInv := { h with }

theorem storePenalty (h : s.RegInv) (n a b c d : Nat) : (s.storePenalty n a b c d).RegInv := { h with }

theorem storeScores (h : s.RegInv) (l : List Nat) : (s.storeScores l).RegInv := { h with }

theorem storePr (h : s.RegInv) {p : List Byte} (hp : p.length ≤ 256) : (s.storePr p).RegInv :=
  { h with prLen_le := by rw [storePr_prLen, BitVec.toNat_ofNat]; omega }

theorem clearBb (h : s.RegInv) : s.clearBb.RegInv := { h with bbLen_le := by simp }

theorem storeBit (h : s.RegInv) (k : Nat) (b : Byte) {n : Nat} (hn : n ≤ 32768) : (s.storeBit k b n).RegInv :=
  { h with bbLen_le := by rw [storeBit_bbLen, BitVec.toNat_ofNat]; omega }

theorem appendBit {b : Bool} (h : s.RegInv) (hs : appendBit b s = .ok t) : t.RegInv := by
  obtain ⟨hlen, v, rfl⟩ := appendBit_ok hs
  exact h.storeBit _ _ hlen

theorem appendBits {bs : List Bool} (h : s.RegInv) (hs : appendBits bs s = .ok t) : t.RegInv := by
  induction bs generalizing s with
  | nil => exact Except.ok.inj hs ▸ h
  | cons b bs ih =>
    obtain ⟨u, hu, ht⟩ := appendBits_cons_ok hs
    exact ih (h.appendBit hu) ht

/-! ### The builder's commands -/

/-- The invariant after an invalidation: what is left to show speaks of the state, the version and the
segments (R222, R223, R226, R229). -/
theorem of_noBuild (h : s.RegInv) (hb : t.noBuild) (hkept : t.prLen = s.prLen ∧ t.bbLen = s.bbLen ∧ t.cfg = s.cfg)
    (hq : t.qrState = .empty ∨ t.qrState = .dataAppended ∨ t.qrState = .versionChosen)
    (hver : t.qrVer.toNat ≤ 40) (hchosen : t.qrVer = 0 ↔ t.qrState = .empty ∨ t.qrState = .dataAppended)
    (hle : t.segCount.toNat ≤ 8) (hheld : t.segCount = 0 ↔ t.qrState = .empty)
    (hin : ∀ k : Fin 8, (t.segs[k]).off.toNat + (t.segs[k]).len.toNat ≤ 4096)
    (hun : ∀ k : Fin 8, t.segCount.toNat ≤ k.val → t.segs[k] = ⟨0, 0⟩) : t.RegInv := by
  obtain ⟨hcw, htot, hdat, hsize, hcv, hch, hmask, htest⟩ := hb
  obtain ⟨hpr, hbb, hcfg⟩ := hkept
  exact
  { prLen_le := hpr ▸ h.prLen_le
    bbLen_le := hbb ▸ h.bbLen_le
    vreq_le := hcfg ▸ h.vreq_le
    mreq_le := hcfg ▸ h.mreq_le
    ver_le := hver
    ver_chosen := hchosen
    segs_le := hle
    segs_held := hheld
    segs_inside := hin
    segs_unused := hun
    cw_dropped := fun _ => ⟨htot, hdat⟩
    cw_held := by simp [hcw]
    chosen_dropped := fun _ => hch
    chosen_held := by simp [hcv]
    matrix_dropped := fun _ => ⟨hmask, htest⟩
    matrix_held := fun hn => absurd hsize hn
    laidOut := by rcases hq with hq | hq | hq <;> simp [hq]
    maskChosen := by rcases hq with hq | hq | hq <;> simp [hq]
    final := by rcases hq with hq | hq | hq <;> simp [hq] }

theorem clear (h : s.RegInv) (hs : clearOutcome s = .ok t) : t.RegInv := by
  obtain rfl : _ = t := Except.ok.inj hs
  exact h.of_noBuild (by simp [State.noBuild]) (by simp) (by simp) (by simp) (by simp) (by simp) (by simp)
    (by simp) (by simp)

/-- Before a version is chosen nothing depends on QR_CFG (R224). -/
theorem setCfg (h : s.RegInv) (hq : s.qrState = .empty ∨ s.qrState = .dataAppended) {c : QrCfg}
    (hv : c.vreq.toNat ≤ 40) (hm : c.mreq.toNat ≤ 8) : (s.setCfg c).RegInv :=
  { h with
    vreq_le := hv
    mreq_le := hm
    cw_held := fun hc => absurd (h.ver_chosen.mpr hq) (h.cw_held hc).1 }

theorem append (h : s.RegInv) (hs : appendOutcome s = .ok t) : t.RegInv := by
  obtain ⟨-, hr, hn, rfl⟩ := appendOutcome_ok hs
  have count : (s.segCount + 1).toNat = s.segCount.toNat + 1 := by bv_omega
  have some : s.segCount + 1 ≠ 0 := by bv_omega
  refine h.of_noBuild (by simp [State.noBuild]) (by simp) (by simp) (by simp) (by simp) ?_ (by simpa using some)
    (fun k => ?_) (fun k hk => ?_)
  · simp only [setQrState_segCount, setVersion_segCount, invalidate_segCount, addSeg_segCount, count]
    omega
  · simp only [setQrState_segs, setVersion_segs, invalidate_segs, addSeg_segs, Fin.getElem_fin,
      Vector.getElem_setIfInBounds]
    split
    · exact segment_inside hr
    · exact h.segs_inside k
  · simp only [setQrState_segCount, setVersion_segCount, invalidate_segCount, addSeg_segCount, count] at hk
    simp only [setQrState_segs, setVersion_segs, invalidate_segs, addSeg_segs, Fin.getElem_fin,
      Vector.getElem_setIfInBounds]
    rw [if_neg (by omega)]
    exact h.segs_unused k (by omega)

theorem selectedVersion (h : s.RegInv) (hq : s.qrState = .dataAppended ∨ s.qrState.hasVersion = true)
    {v : BitVec 6} (h0 : v ≠ 0) (hv : v.toNat ≤ 40) : (s.selectedVersion v).RegInv := by
  have some : s.segCount ≠ 0 := h.segCount_ne_zero (by rintro he; simp [he, QrState.hasVersion] at hq)
  exact h.of_noBuild (by simp [State.selectedVersion, State.noBuild]) (by simp [State.selectedVersion])
    (by simp [State.selectedVersion]) hv (by simpa [State.selectedVersion] using h0) h.segs_le
    (by simpa [State.selectedVersion] using some) h.segs_inside h.segs_unused

theorem selVer (h : s.RegInv) (hs : selVerOutcome s = .ok t) : t.RegInv := by
  obtain ⟨hq, ⟨-, v, hv, rfl⟩ | ⟨h0, rfl⟩⟩ := selVerOutcome_ok hs
  · obtain ⟨h1, h40⟩ := selectVersion_range hv
    have toNat : (BitVec.ofNat 6 v).toNat = v := by rw [BitVec.toNat_ofNat]; omega
    refine h.selectedVersion hq (fun h0 => ?_) (by omega)
    have : v = 0 := by rw [← toNat, h0]; rfl
    omega
  · exact h.selectedVersion hq h0 h.vreq_le

theorem buildCodewords (h : s.RegInv) (hv : s.qrState.hasVersion = true) (hs : buildCodewords s = .ok t) :
    t.RegInv := by
  obtain ⟨d, c, -, -, rfl⟩ := buildCodewords_ok hs
  obtain ⟨hd, ht⟩ := codewordCounts_lt h.ver_le (levelOf s.cfg.ecc)
  exact
  { h with
    bbLen_le := by rw [storeCodewords_bbLen, BitVec.toNat_ofNat]; omega
    cw_dropped := by simp
    cw_held := fun _ => by
      refine ⟨h.ver_ne_zero hv, ?_, ?_⟩
      · exact Nat.mod_eq_of_lt ht
      · exact Nat.mod_eq_of_lt hd
    final := fun hf => by
      obtain ⟨hn, htest, -⟩ := h.final hf
      exact ⟨hn, htest, rfl⟩ }

theorem ensureCw (h : s.RegInv) (hv : s.qrState.hasVersion = true) (hs : ensureCw s = .ok t) : t.RegInv := by
  obtain ⟨-, rfl⟩ | ⟨-, hb⟩ := ensureCw_ok hs
  · exact h
  · exact h.buildCodewords hv hb

/-- A layout with its mask and test flag, in the state that goes with it (spec/45_matrix_layout.md R273). -/
theorem layOut (h : s.RegInv) (hv : s.qrState.hasVersion = true) (hcw : s.cwValid = true) (m : BitVec 3)
    (test : Bool) {q : QrState} (hq : q = if test then .matrixLaidOut else .matrixFinal) :
    ((s.layOut m test).setQrState q).RegInv := by
  have hver := h.ver_ne_zero hv
  have hsize : (BitVec.ofNat 8 (moduleCount s.qrVer.toNat)).toNat = 4 * s.qrVer.toNat + 17 := by
    have := h.ver_le
    rw [BitVec.toNat_ofNat, moduleCount]
    omega
  have hn : BitVec.ofNat 8 (moduleCount s.qrVer.toNat) ≠ 0 := fun h0 => by
    rw [h0] at hsize
    simp at hsize
  exact
  { h with
    ver_chosen := by cases test <;> simp_all [State.layOut]
    segs_held := by
      have := h.segCount_ne_zero (by rintro he; simp [he, QrState.hasVersion] at hv)
      cases test <;> simp_all [State.layOut]
    matrix_dropped := fun h0 => absurd h0 hn
    matrix_held := fun _ => ⟨hver, hsize⟩
    laidOut := by cases test <;> simp_all [State.layOut]
    maskChosen := by cases test <;> simp_all
    final := by cases test <;> simp_all [State.layOut] }

/-- The mask chosen, in MaskChosen (spec/46_mask_penalty.md R311). -/
theorem choose (h : s.RegInv) (hv : s.qrState.hasVersion = true) (m : BitVec 3) :
    ((s.choose m).setQrState .maskChosen).RegInv :=
  { h with
    ver_chosen := by simpa using h.ver_ne_zero hv
    segs_held := by
      simpa using h.segCount_ne_zero (by rintro he; simp [he, QrState.hasVersion] at hv)
    chosen_dropped := by simp
    chosen_held := fun _ => h.ver_ne_zero hv
    laidOut := by simp
    maskChosen := by simp
    final := by simp }

theorem layout {test : Bool} {m : BitVec 3} (h : s.RegInv) (hs : layoutOutcome test m s = .ok t) : t.RegInv := by
  obtain ⟨hv, u, hu, rfl⟩ := layoutOutcome_ok hs
  obtain ⟨hcw, hq, -⟩ := ensureCw_kept hu
  exact (h.ensureCw hv hu).layOut (hq ▸ hv) hcw m test rfl

/-- The automatic selection lays out the last trial, then chooses (R311). -/
theorem selectAuto (h : s.RegInv) (hv : s.qrState.hasVersion = true) (hcw : s.cwValid = true) :
    (s.selectAuto.setQrState .maskChosen).RegInv := by
  have scored : ((s.storeScores (trialScores s.qrVer.toNat s.cfg.ecc s.codewords)).storeScoreOf
      (s.layoutOf (BitVec.ofNat 3 (bestMask (trialScores s.qrVer.toNat s.cfg.ecc s.codewords))))).RegInv :=
    (h.storeScores _).storePenalty _ _ _ _ _
  exact (scored.layOut hv hcw 7 true (q := .matrixLaidOut) rfl).choose rfl _

theorem maskSel (h : s.RegInv) (hs : maskSelOutcome s = .ok t) : t.RegInv := by
  obtain ⟨hv, ⟨-, u, hu, rfl⟩ | ⟨-, rfl⟩⟩ := maskSelOutcome_ok hs
  · obtain ⟨hcw, hq, -⟩ := ensureCw_kept hu
    exact (h.ensureCw hv hu).selectAuto (hq ▸ hv) hcw
  · exact h.choose hv _

theorem finish (h : s.RegInv) (hs : finalOutcome s = .ok t) : t.RegInv := by
  obtain ⟨hv, -, u, hu, rfl⟩ := finalOutcome_ok hs
  obtain ⟨hcw, hq, -⟩ := ensureCw_kept hu
  exact (h.ensureCw hv hu).layOut (hq ▸ hv) hcw _ false rfl

theorem codewords (h : s.RegInv) (hs : codewordsOutcome s = .ok t) : t.RegInv :=
  h.buildCodewords (codewordsOutcome_ok hs).1 (codewordsOutcome_ok hs).2

/-- The result of a polynomial command fits PR_LEN (spec/42_poly_rs.md R167-R170). -/
theorem polyMod (h : s.RegInv) (hs : polyModOutcome s = .ok t) : t.RegInv := by
  obtain ⟨hlen, -, r, hr, rfl⟩ := polyModOutcome_ok hs
  refine h.storePr ?_
  have := (pmod_ok hr).1
  simp only [polyLenOk, Bool.and_eq_true, decide_eq_true_eq] at hlen
  simp only [State.polyA, State.ramBytes, List.length_map, List.length_range, Config.polyMax] at *
  omega

theorem rsEcc {k : Byte} (h : s.RegInv) (hs : rsEccOutcome k s = .ok t) : t.RegInv := by
  obtain ⟨-, e, he, rfl⟩ := rsEccOutcome_ok hs
  exact h.storePr (by have := length_rsecc he; omega)

theorem rsGen (h : s.RegInv) (k : Byte) : (s.storePr (gen k.toNat)).RegInv :=
  h.storePr (by have := length_gen_le k.toNat; omega)

theorem config {m e v : Byte} (h : s.RegInv)
    (hs : ifLegal (fieldIn 0 8 m && fieldIn 0 3 e && fieldIn 0 40 v) (configOutcome m e v s) = .ok t) :
    t.RegInv := by
  obtain ⟨hl, hs⟩ := ifLegal_ok hs
  obtain ⟨hq, rfl⟩ := configOutcome_ok hs
  simp only [fieldIn, Bool.and_eq_true, decide_eq_true_eq] at hl
  refine h.setCfg hq ?_ ?_
  · rw [BitVec.toNat_setWidth]
    omega
  · rw [BitVec.toNat_setWidth]
    omega

theorem outcome {i : Instr} (h : s.RegInv) (hs : outcome i s = .ok t) : t.RegInv := by
  cases i with
  | nop => exact Except.ok.inj hs ▸ h
  | gfMul => exact Except.ok.inj hs ▸ h.setRes0 _
  | gfDiv =>
    obtain ⟨b, -, rfl⟩ := resByte_ok hs
    exact h.setRes0 _
  | gfInv =>
    obtain ⟨b, -, rfl⟩ := resByte_ok hs
    exact h.setRes0 _
  | gfLog =>
    obtain ⟨b, -, rfl⟩ := resByte_ok hs
    exact h.setRes0 _
  | gfExp => exact Except.ok.inj hs ▸ h.setRes0 _
  | polyMul =>
    obtain ⟨-, -, hl, rfl⟩ := polyMulOutcome_ok hs
    exact h.storePr hl
  | polyMod => exact h.polyMod hs
  | rsGen k => exact Except.ok.inj hs ▸ h.rsGen k
  | rsEcc => exact h.rsEcc (ifLegal_ok hs).2
  | bbClear => exact Except.ok.inj hs ▸ h.clearBb
  | bbPut => exact h.appendBits (bbPutOutcome_ok (ifLegal_ok hs).2).2
  | bbPutBit => exact h.appendBit (ifLegal_ok hs).2
  | qrClear => exact h.clear hs
  | qrConfig => exact h.config hs
  | qrAppend => exact h.append hs
  | qrSelVer => exact h.selVer hs
  | qrCodewords => exact h.codewords hs
  | qrLayout => exact h.layout (ifLegal_ok hs).2
  | qrPenalty =>
    obtain ⟨-, rfl⟩ := penaltyOutcome_ok hs
    exact h.storePenalty _ _ _ _ _
  | qrMaskSel => exact h.maskSel hs
  | qrFinal => exact h.finish hs
  | qrMake => exact makeOutcome_keeps selVer codewords maskSel finish h hs
  | qrFmtBch => exact Except.ok.inj (ifLegal_ok hs).2 ▸ h.setRes0 _
  | qrVerBch => exact Except.ok.inj (ifLegal_ok hs).2 ▸ h.setRes0 _
  | tblQuery => exact Except.ok.inj (ifLegal_ok hs).2 ▸ h.setRes _ _
  | tblAlign => exact Except.ok.inj (ifLegal_ok hs).2 ▸ h.setRes _ _
  | crcInit => exact Except.ok.inj hs ▸ h.setCrc _
  | crcByte => exact Except.ok.inj hs ▸ h.setCrc _
  | crcBuf =>
    obtain ⟨-, rfl⟩ := crcBufOutcome_ok hs
    exact h.setCrc _

theorem exec {i : Instr} (h : s.RegInv) (hs : exec i s = .next t) : t.RegInv := by
  obtain ⟨u, hu, rfl⟩ | ⟨c, -, rfl⟩ := exec_next hs
  · exact (h.outcome hu).succeed
  · exact h.fail c

end State.RegInv

/-- The registers a soft reset leaves are those of power-on (R382). -/
theorem regInv_softReset (s : State) : s.softReset.RegInv := by
  constructor <;> simp

theorem regInv_keptByTurns : KeptByTurns State.RegInv where
  setTurns := fun _ h => { h with }
  respond := fun _ h => { h with }
  drawn := fun h => { h with }
  softReset := fun _ => regInv_softReset _
  setIrqEn := fun _ h => { h with }
  clearStatus := fun _ h => { h with }
  overrun := fun h => { h with }
  accept := fun _ h => { h with }
  setArg0 := fun _ h => { h with }
  setArg1 := fun _ h => { h with }
  setPaLen := fun _ h => { h with }
  setPbLen := fun _ h => { h with }
  writeRam := fun _ _ h => { h with }
  fail := fun c h => h.fail c
  exec := fun h hx => h.exec hx

/-- Settles O57: no host access but the soft reset writes a register of the builder, and each command's outcome
meets the invariant anew. -/
theorem regInvKept : Obligations.RegInvKept :=
  fun _ _ hs hst => regInv_keptByTurns.step hs hst

end Sys2Proof.Machine

namespace Sys2Proof.Machine

/-! ## A layout resolves every cell (spec/45_matrix_layout.md R260-R271, R285) -/

/-! ### Cells -/

/-- n rows of n cells. -/
def Grid.square (n : Nat) (g : Grid) : Prop := g.length = n ∧ ∀ row ∈ g, row.length = n

theorem Grid.get_eq (g : Grid) (r c : Nat) : Grid.get g r c = (((g[r]?).getD [])[c]?).getD .unset := by
  simp [Grid.get, List.getD_eq_getElem?_getD]

/-- The cell set in place, every other as before. -/
theorem Grid.get_set_other (g : Grid) {r c r' c' : Nat} (m : QrCell) (h : r ≠ r' ∨ c ≠ c') :
    Grid.get (Grid.set g r c m) r' c' = Grid.get g r' c' := by
  simp only [Grid.get_eq, Grid.set, List.getElem?_modify]
  by_cases hr : r = r'
  · have hc : c ≠ c' := h.resolve_left (fun hne => hne hr)
    cases g[r']? with
    | none => simp
    | some row => simp [hr, hc]
  · simp [hr]

theorem Grid.get_set_same {g : Grid} {r c : Nat} (hr : r < g.length) (hc : c < g[r].length) (m : QrCell) :
    Grid.get (Grid.set g r c m) r c = m := by
  simp [Grid.get_eq, Grid.set, hr, hc]

theorem Grid.get_set_square {n : Nat} {g : Grid} (hg : Grid.square n g) {r c : Nat} (hr : r < n) (hc : c < n)
    (m : QrCell) : Grid.get (Grid.set g r c m) r c = m := by
  have hr' : r < g.length := hg.1.symm ▸ hr
  exact Grid.get_set_same hr' ((hg.2 _ (List.getElem_mem hr')).symm ▸ hc) m

/-- A cell that is not unset lies inside the matrix. -/
theorem Grid.inside_of_get {g : Grid} {r c : Nat} (h : Grid.get g r c ≠ .unset) :
    ∃ hr : r < g.length, c < g[r].length := by
  rw [Grid.get_eq] at h
  by_cases hr : r < g.length
  · refine ⟨hr, ?_⟩
    by_contra hc
    simp [hr, List.getElem?_eq_none (Nat.le_of_not_lt hc)] at h
  · simp [List.getElem?_eq_none (Nat.le_of_not_lt hr)] at h

theorem Grid.square_set {n : Nat} {g : Grid} (hg : Grid.square n g) (r c : Nat) (m : QrCell) :
    Grid.square n (Grid.set g r c m) := by
  refine ⟨by simpa [Grid.set] using hg.1, fun row hrow => ?_⟩
  obtain ⟨k, hk, rfl⟩ := List.getElem_of_mem hrow
  simp only [Grid.set, List.getElem_modify]
  split
  · simpa using hg.2 _ (List.getElem_mem _)
  · exact hg.2 _ (List.getElem_mem _)

theorem cellOf_ne_unset (b : Bool) : cellOf b ≠ .unset := by cases b <;> decide

/-! ### Placing cells -/

/-- From `g` to `h` no cell is unset again, and the shape stays. -/
structure Grid.Extends (n : Nat) (g h : Grid) : Prop where
  square : Grid.square n g → Grid.square n h
  resolved : ∀ {r c}, Grid.get g r c ≠ .unset → Grid.get h r c ≠ .unset

namespace Grid.Extends
variable {n : Nat} {g h k : Grid}

theorem refl (g : Grid) : Grid.Extends n g g := ⟨id, id⟩

theorem trans (h1 : Grid.Extends n g h) (h2 : Grid.Extends n h k) : Grid.Extends n g k :=
  ⟨h2.square ∘ h1.square, h2.resolved ∘ h1.resolved⟩

theorem set (g : Grid) (r c : Nat) (b : Bool) : Grid.Extends n g (Grid.set g r c (cellOf b)) where
  square := fun hg => Grid.square_set hg r c _
  resolved := fun {r' c'} h => by
    by_cases hrc : r = r' ∧ c = c'
    · obtain ⟨rfl, rfl⟩ := hrc
      obtain ⟨hr, hc⟩ := Grid.inside_of_get h
      rw [Grid.get_set_same hr hc]
      exact cellOf_ne_unset b
    · rwa [Grid.get_set_other g _ (by omega)]

theorem ite {p : Prop} [Decidable p] (h1 : Grid.Extends n g h) (h2 : Grid.Extends n g k) :
    Grid.Extends n g (if p then h else k) := by
  split
  · exact h1
  · exact h2

/-- A walk whose every visit extends the matrix, the matrix being part `π` of what it carries, extends it. -/
theorem foldl {σ α : Type} {f : σ → α → σ} (π : σ → Grid)
    (hf : ∀ st x, Grid.Extends n (π st) (π (f st x))) (l : List α) (st : σ) :
    Grid.Extends n (π st) (π (l.foldl f st)) := by
  induction l generalizing st with
  | nil => exact .refl _
  | cons x l ih => exact (hf st x).trans (ih (f st x))

/-- A cell that the visit of one element resolves is resolved at the walk's end. -/
theorem foldl_resolves {σ α : Type} {f : σ → α → σ} (π : σ → Grid)
    (hf : ∀ st x, Grid.Extends n (π st) (π (f st x))) {x : α} {r c : Nat}
    (hx : ∀ st, Grid.square n (π st) → Grid.get (π (f st x)) r c ≠ .unset) {l : List α} (hl : x ∈ l)
    {st : σ} (hst : Grid.square n (π st)) : Grid.get (π (l.foldl f st)) r c ≠ .unset := by
  induction l generalizing st with
  | nil => simp at hl
  | cons y l ih =>
    rcases List.mem_cons.mp hl with rfl | hl
    · exact (foldl π hf l _).resolved (hx st hst)
    · exact ih hl ((hf st y).square hst)

/-! ### The function patterns -/

theorem setClipped (n' : Nat) (g : Grid) (r c : Int) (b : Bool) :
    Grid.Extends n g (setClipped n' g r c (cellOf b)) := ite (set g _ _ b) (refl g)

theorem setIfUnset (g : Grid) (r c : Nat) (b : Bool) : Grid.Extends n g (setIfUnset g r c (cellOf b)) :=
  ite (set g r c b) (refl g)

theorem placeFinder (n' : Nat) (g : Grid) (r0 c0 : Nat) : Grid.Extends n g (placeFinder n' g r0 c0) :=
  foldl id (fun st _ => setClipped n' st _ _ _) _ g

theorem placeFinders (n' : Nat) (g : Grid) : Grid.Extends n g (placeFinders n' g) :=
  ((placeFinder n' g _ _).trans (placeFinder n' _ _ _)).trans (placeFinder n' _ _ _)

theorem placeAlign (n' : Nat) (g : Grid) (r c : Nat) : Grid.Extends n g (placeAlign n' g r c) :=
  ite (foldl id (fun st _ => setClipped n' st _ _ _) _ g) (refl g)

theorem placeAlignment (v : Nat) (g : Grid) : Grid.Extends n g (placeAlignment v g) :=
  foldl id (fun st r => foldl id (fun st c => placeAlign _ st r c) _ st) _ g

theorem timingStep (g : Grid) (k : Nat) (b : Bool) :
    Grid.Extends n g (Machine.setIfUnset (Machine.setIfUnset g k 6 (cellOf b)) 6 k (cellOf b)) :=
  (setIfUnset g k 6 b).trans (setIfUnset _ 6 k b)

theorem placeTiming (n' : Nat) (g : Grid) : Grid.Extends n g (placeTiming n' g) :=
  foldl id (fun st k => timingStep st k _) _ g

theorem placeFormat (n' : Nat) (g : Grid) (f : Nat) : Grid.Extends n g (placeFormat n' g f) :=
  foldl id (fun st _ => (set st _ _ _).trans (set _ _ _ _)) _ g

theorem placeVersion (n' : Nat) (g : Grid) (w : Nat) : Grid.Extends n g (placeVersion n' g w) :=
  foldl id (fun st _ => (set st _ _ _).trans (set _ _ _ _)) _ g

/-- What the timing patterns leave, the later patterns of R260 keep. -/
theorem functionPatterns (v : Nat) (e : BitVec 2) (m : BitVec 3) :
    Grid.Extends n (Machine.placeTiming (moduleCount v)
      (Machine.placeAlignment v (Machine.placeFinders (moduleCount v) (emptyGrid (moduleCount v)))))
      (functionPatterns v e m) :=
  ((placeFormat _ _ _).trans (set _ _ _ true)).trans (ite (placeVersion _ _ _) (refl _))

theorem mapCell (m : BitVec 3) (st : Grid × List Bool) (cell : Nat × Nat) :
    Grid.Extends n st.1 (mapCell m st cell).1 := by
  unfold Machine.mapCell
  split
  · exact set _ _ _ _
  · exact refl _

end Grid.Extends

theorem square_emptyGrid (n : Nat) : Grid.square n (emptyGrid n) := by
  simp [Grid.square, emptyGrid]

/-- A cell set if it was unset is resolved. -/
theorem get_setIfUnset {n : Nat} {g : Grid} (hg : Grid.square n g) {r c : Nat} (hr : r < n) (hc : c < n)
    (b : Bool) :
    Grid.get (setIfUnset g r c (cellOf b)) r c ≠ .unset := by
  unfold setIfUnset
  split
  · rw [Grid.get_set_square hg hr hc]
    exact cellOf_ne_unset b
  · assumption

/-- The timing pattern resolves column 6 (R264). -/
theorem placeTiming_resolves {n : Nat} (hn : 6 < n) {g : Grid} (hg : Grid.square n g) {r : Nat} (hr : r < n) :
    Grid.get (placeTiming n g) r 6 ≠ .unset :=
  Grid.Extends.foldl_resolves (f := fun g k => setIfUnset (setIfUnset g k 6 (cellOf (k % 2 == 0))) 6 k
      (cellOf (k % 2 == 0))) id (fun st k => .timingStep st k _)
    (fun _ hst => (Grid.Extends.setIfUnset (n := n) _ _ _ _).resolved (get_setIfUnset hst hr hn _))
    (List.mem_range.mpr hr) hg

/-- The data mapping resolves every cell the zigzag visits (R270, R271). -/
theorem mapCell_resolves {n : Nat} (m : BitVec 3) {st : Grid × List Bool} (hst : Grid.square n st.1) {r c : Nat}
    (hr : r < n) (hc : c < n) : Grid.get (mapCell m st (r, c)).1 r c ≠ .unset := by
  unfold mapCell
  split
  · simp only [Grid.get_set_square hst hr hc]
    exact cellOf_ne_unset _
  · assumption

/-! ### The zigzag -/

/-- From column `col` on the column pairs reach every column but 6: an even column from 6 on (6 itself stepped
past) or an odd one below it leads two columns to the left (R270). -/
theorem zigzagColumns_cover {fuel col j : Nat} (up : Bool) (hf : col ≤ fuel)
    (hcol : (6 ≤ col ∧ col % 2 = 0) ∨ (col ≤ 5 ∧ col % 2 = 1)) (hj : j ≤ col) (h6 : j ≠ 6) :
    ∃ q ∈ zigzagColumns fuel col up, j = q.1 ∨ j = q.1 - 1 := by
  induction fuel generalizing col up with
  | zero => omega
  | succ fuel ih =>
    obtain ⟨c, hc⟩ : ∃ c, c = if col = 6 then 5 else col := ⟨_, rfl⟩
    rw [zigzagColumns, if_neg (by omega), ← hc]
    by_cases here : j = c ∨ j = c - 1
    · exact ⟨(c, up), by simp, here⟩
    · have hc' : c - 2 ≤ fuel ∧ ((6 ≤ c - 2 ∧ (c - 2) % 2 = 0) ∨ (c - 2 ≤ 5 ∧ (c - 2) % 2 = 1)) ∧ j ≤ c - 2 := by
        split at hc <;> omega
      obtain ⟨hf', hcol', hj'⟩ := hc'
      obtain ⟨q, hq, hjq⟩ := ih (!up) hf' hcol' hj'
      exact ⟨q, List.mem_cons_of_mem _ hq, hjq⟩

/-- The zigzag visits every cell outside column 6 (R270). -/
theorem mem_zigzag {v r c : Nat} (hr : r < moduleCount v) (hc : c < moduleCount v) (h6 : c ≠ 6) :
    (r, c) ∈ zigzag (moduleCount v) := by
  simp only [moduleCount] at *
  obtain ⟨q, hq, hcq⟩ := zigzagColumns_cover (fuel := 4 * v + 17) (col := 4 * v + 17 - 1) (j := c) true (by omega)
    (by omega) (by omega) h6
  refine List.mem_flatMap.mpr ⟨q, hq, List.mem_flatMap.mpr ⟨r, ?_, ?_⟩⟩
  · split <;> simpa using hr
  · rcases hcq with rfl | rfl <;> simp

/-! ### The layout -/

theorem square_functionPatterns (v : Nat) (e : BitVec 2) (m : BitVec 3) :
    Grid.square (moduleCount v) (functionPatterns v e m) :=
  ((((Grid.Extends.placeFinders _ _).trans (.placeAlignment v _)).trans (.placeTiming _ _)).trans
    (.functionPatterns v e m)).square (square_emptyGrid _)

theorem functionPatterns_column6 {v r : Nat} (e : BitVec 2) (m : BitVec 3) (hr : r < moduleCount v) :
    Grid.get (functionPatterns v e m) r 6 ≠ .unset :=
  (Grid.Extends.functionPatterns (n := moduleCount v) v e m).resolved
    (placeTiming_resolves (by simp only [moduleCount]; omega)
      (((Grid.Extends.placeFinders _ _).trans (.placeAlignment v _)).square (square_emptyGrid _)) hr)

/-- A square matrix without an unset cell is resolved. -/
theorem resolved_of_get {n : Nat} {g : Grid} (hg : Grid.square n g)
    (h : ∀ r c, r < n → c < n → Grid.get g r c ≠ .unset) : resolved n g := by
  refine ⟨hg.1, fun row hrow => ⟨hg.2 row hrow, fun cell hcell => ?_⟩⟩
  obtain ⟨r, hr, rfl⟩ := List.getElem_of_mem hrow
  obtain ⟨c, hc, rfl⟩ := List.getElem_of_mem hcell
  simpa [Grid.get_eq, hr, hc] using h r c (hg.1 ▸ hr) (hg.2 _ hrow ▸ hc)

/-- Every cell of a layout is light or dark (R285). -/
theorem layout_resolved (v : Nat) (e : BitVec 2) (m : BitVec 3) (cs : List Byte) :
    resolved (moduleCount v) (layout v e m cs) := by
  have hsq := square_functionPatterns v e m
  have walk := Grid.Extends.foldl (n := moduleCount v) Prod.fst (Grid.Extends.mapCell m) (zigzag (moduleCount v))
    (functionPatterns v e m, bytesToBits cs)
  refine resolved_of_get (walk.square hsq) fun r c hr hc => ?_
  by_cases h6 : c = 6
  · exact walk.resolved (h6 ▸ functionPatterns_column6 e m hr)
  · exact Grid.Extends.foldl_resolves Prod.fst (Grid.Extends.mapCell m)
      (fun st hst => mapCell_resolves m hst hr hc) (mem_zigzag hr hc h6) hsq

/-! ## MATRIX -/

/-- No matrix is held. -/
theorem matrixInv_of_absent {s : State} (hn : s.qrSize = 0) (hm : s.matrix = []) : s.MatrixInv := .inl ⟨hn, hm⟩

/-- A layout of a version up to 40 is a resolved matrix of QR_SIZE rows (R273). -/
theorem matrixInv_layOut {s : State} (hv : s.qrVer.toNat ≤ 40) (m : BitVec 3) (test : Bool) :
    (s.layOut m test).MatrixInv := by
  have size : (s.layOut m test).qrSize.toNat = moduleCount s.qrVer.toNat := by
    show (BitVec.ofNat 8 _).toNat = _
    rw [BitVec.toNat_ofNat, moduleCount]
    omega
  refine .inr ⟨fun h0 => ?_, size ▸ layout_resolved _ _ _ _⟩
  rw [h0] at size
  simp [moduleCount] at size

/-- The automatic selection leaves the last trial in MATRIX (R311). -/
theorem matrixInv_selectAuto {s : State} (hv : s.qrVer.toNat ≤ 40) : s.selectAuto.MatrixInv := by
  have laid : (((s.storeScores (trialScores s.qrVer.toNat s.cfg.ecc s.codewords)).storeScoreOf
      (s.layoutOf (BitVec.ofNat 3 (bestMask (trialScores s.qrVer.toNat s.cfg.ecc s.codewords))))).layOut 7
        true).MatrixInv := matrixInv_layOut (by simpa [State.storeScoreOf] using hv) 7 true
  exact laid

namespace State.MatrixInv
variable {s t : State}

theorem of_keeps {R : Reg → Bool} {W : Window → Bool} {B : Bool} (h : s.MatrixInv) (k : Keeps R W B s t)
    (hw : W .matrix = false) : t.MatrixInv := by
  obtain ⟨hm, hn⟩ := k.matrix hw
  unfold State.MatrixInv at *
  rwa [hm, hn]

theorem selVer (hs : selVerOutcome s = .ok t) : t.MatrixInv := by
  obtain ⟨-, ⟨-, v, -, rfl⟩ | ⟨-, rfl⟩⟩ := selVerOutcome_ok hs
  · exact matrixInv_of_absent rfl rfl
  · exact matrixInv_of_absent rfl rfl

theorem layout {test : Bool} {m : BitVec 3} (hr : s.RegInv) (hs : layoutOutcome test m s = .ok t) :
    t.MatrixInv := by
  obtain ⟨-, u, hu, rfl⟩ := layoutOutcome_ok hs
  obtain ⟨-, -, hver⟩ := ensureCw_kept hu
  exact matrixInv_layOut (hver ▸ hr.ver_le) m test

theorem finish (hr : s.RegInv) (hs : finalOutcome s = .ok t) : t.MatrixInv := by
  obtain ⟨-, -, u, hu, rfl⟩ := finalOutcome_ok hs
  obtain ⟨-, -, hver⟩ := ensureCw_kept hu
  exact matrixInv_layOut (hver ▸ hr.ver_le) u.chosen false

theorem maskSel (hr : s.RegInv) (h : s.MatrixInv) (hs : maskSelOutcome s = .ok t) : t.MatrixInv := by
  obtain ⟨-, ⟨-, u, hu, rfl⟩ | ⟨-, rfl⟩⟩ := maskSelOutcome_ok hs
  · obtain ⟨-, -, hver⟩ := ensureCw_kept hu
    have hm : u.selectAuto.MatrixInv := matrixInv_selectAuto (hver ▸ hr.ver_le)
    exact hm
  · exact h

theorem codewords (h : s.MatrixInv) (hs : codewordsOutcome s = .ok t) : t.MatrixInv :=
  h.of_keeps (keeps_buildCodewords (codewordsOutcome_ok hs).2) rfl

theorem make (hr : s.RegInv) (h : s.MatrixInv) (hs : makeOutcome s = .ok t) : t.MatrixInv :=
  (makeOutcome_keeps (P := fun s => s.RegInv ∧ s.MatrixInv)
    (fun h hs => ⟨h.1.selVer hs, selVer hs⟩)
    (fun h hs => ⟨h.1.codewords hs, h.2.codewords hs⟩)
    (fun h hs => ⟨h.1.maskSel hs, maskSel h.1 h.2 hs⟩)
    (fun h hs => ⟨h.1.finish hs, finish h.1 hs⟩) ⟨hr, h⟩ hs).2

/-- A command that does not write MATRIX keeps it, and each other one drops it or lays a matrix out. -/
theorem outcome {i : Instr} (hr : s.RegInv) (h : s.MatrixInv) (hs : outcome i s = .ok t) : t.MatrixInv := by
  cases hw : writesWindow i .matrix with
  | false => exact h.of_keeps (keeps_outcome hs) hw
  | true =>
    cases i with
    | qrClear => exact matrixInv_of_absent (Except.ok.inj hs ▸ rfl) (Except.ok.inj hs ▸ rfl)
    | qrAppend =>
      obtain ⟨-, -, -, rfl⟩ := appendOutcome_ok hs
      exact matrixInv_of_absent rfl rfl
    | qrSelVer => exact selVer hs
    | qrLayout => exact layout hr (ifLegal_ok hs).2
    | qrMaskSel => exact maskSel hr h hs
    | qrFinal => exact finish hr hs
    | qrMake => exact make hr h hs
    | _ => exact Bool.noConfusion hw

theorem exec {i : Instr} (hr : s.RegInv) (h : s.MatrixInv) (hs : exec i s = .next t) : t.MatrixInv := by
  obtain ⟨u, hu, rfl⟩ | ⟨c, -, rfl⟩ := exec_next hs
  · have hm := outcome hr h hu
    exact hm
  · exact h

end State.MatrixInv

/-- RegInv and MatrixInv together survive every turn; the host writes MATRIX only by a soft reset. -/
theorem matrixInv_keptByTurns : KeptByTurns (fun s => s.RegInv ∧ s.MatrixInv) where
  setTurns := fun ts h => ⟨regInv_keptByTurns.setTurns ts h.1, h.2⟩
  respond := fun r h => ⟨regInv_keptByTurns.respond r h.1, h.2⟩
  drawn := fun h => ⟨regInv_keptByTurns.drawn h.1, h.2⟩
  softReset := fun h => ⟨regInv_keptByTurns.softReset h.1, matrixInv_of_absent rfl rfl⟩
  setIrqEn := fun b h => ⟨regInv_keptByTurns.setIrqEn b h.1, h.2⟩
  clearStatus := fun v h => ⟨regInv_keptByTurns.clearStatus v h.1, h.2⟩
  overrun := fun h => ⟨regInv_keptByTurns.overrun h.1, h.2⟩
  accept := fun w h => ⟨regInv_keptByTurns.accept w h.1, h.2⟩
  setArg0 := fun v h => ⟨regInv_keptByTurns.setArg0 v h.1, h.2⟩
  setArg1 := fun v h => ⟨regInv_keptByTurns.setArg1 v h.1, h.2⟩
  setPaLen := fun v h => ⟨regInv_keptByTurns.setPaLen v h.1, h.2⟩
  setPbLen := fun v h => ⟨regInv_keptByTurns.setPbLen v h.1, h.2⟩
  writeRam := fun hw hin h => ⟨regInv_keptByTurns.writeRam hw hin h.1, h.2⟩
  fail := fun c h => ⟨h.1.fail c, h.2⟩
  exec := fun h hx => ⟨h.1.exec hx, h.2.exec h.1 hx⟩

/-- Settles O60: MATRIX is dropped, kept, or laid out anew, and a layout resolves every cell. -/
theorem matrixInvKept : Obligations.MatrixInvKept :=
  fun _ _ hr hm hst => (matrixInv_keptByTurns.step ⟨hr, hm⟩ hst).2

end Sys2Proof.Machine

/-! ## The lengths of codewords (spec/44_symbol_builder.md R227-R237) -/

namespace Sys2Proof.Machine

@[simp] theorem length_bitsOf (v n : Nat) : (bitsOf v n).length = n := by simp [bitsOf]

@[simp] theorem length_bytesToBits (l : List Byte) : (bytesToBits l).length = 8 * l.length := by
  simp [bytesToBits, List.length_flatMap, Nat.mul_comm]

@[simp] theorem length_bitsToBytes (n : Nat) (bits : List Bool) : (bitsToBytes n bits).length = n := by
  induction n generalizing bits with
  | zero => rfl
  | succ n ih => simp [bitsToBytes, ih]

theorem length_segBits (v : Nat) (seg : List Byte) : (segBits v seg).length = segBitLen v seg.length := by
  simp only [segBits, segBitLen, List.length_append, length_bitsOf, length_bytesToBits]

/-- The bit sequence of R230 step 1 has the length R227 gives it. -/
theorem length_flatMap_segBits (v : Nat) (segs : List (List Byte)) :
    (segs.flatMap (segBits v)).length = bitLen (segs.map List.length) v := by
  simp only [bitLen, List.length_flatMap, List.map_map, length_segBits, Function.comp_def]

theorem length_terminated_le {cap : Nat} {bits : List Bool} (h : bits.length ≤ cap) :
    (terminated cap bits).length ≤ cap := by
  unfold terminated
  split
  · simpa using ‹_›
  · exact h

/-- Alignment to a byte boundary does not leave a capacity of whole bytes. -/
theorem length_byteAligned_le {n : Nat} {bits : List Bool} (h : bits.length ≤ 8 * n) :
    (byteAligned bits).length ≤ 8 * n := by
  simp only [byteAligned, List.length_append, List.length_replicate]
  omega

/-- The data codewords are exactly DC(v, lv) (R230). -/
theorem length_buildData {segs : List (List Byte)} {v : Nat} {lv : Level} {d : List Byte}
    (h : buildData segs v lv = .ok d) : d.length = dataCount v lv := by
  simp only [buildData] at h
  split at h
  · simp at h
  · rename_i hcap
    have fits := length_byteAligned_le (length_terminated_le
      (length_flatMap_segBits v segs ▸ Nat.le_of_not_lt hcap))
    obtain rfl : _ = d := Except.ok.inj h
    simp only [List.length_append, length_bitsToBytes, List.length_map, List.length_range]
    omega

/-! ### Blocks -/

/-- The blocks' data codewords together are DC(v, lv) (R190, R191). -/
theorem sum_data_blockList (v : Nat) (lv : Level) : ((blockList v lv).map Prod.snd).sum = dataCount v lv := by
  simp [blockList, dataCount, List.flatMap_def, List.sum_flatten, Function.comp_def]

/-- The blocks' codewords together are TC(v) (R190, R191). -/
theorem sum_total_blockList (v : Nat) (lv : Level) : ((blockList v lv).map Prod.fst).sum = totalCount v lv := by
  simp [blockList, totalCount, List.flatMap_def, List.sum_flatten, Function.comp_def]

/-- Each block of the split has the length its list gives it, where the data suffice (R233). -/
theorem map_length_splitBlocks {d : List Byte} {bs : List (Nat × Nat)} (h : (bs.map Prod.snd).sum ≤ d.length) :
    (splitBlocks d bs).map List.length = bs.map Prod.snd := by
  induction bs generalizing d with
  | nil => rfl
  | cons b bs ih =>
    simp only [List.map_cons, List.sum_cons] at h
    have rest := ih (d := d.drop b.2) (by rw [List.length_drop]; omega)
    simp only [splitBlocks, List.map_cons, rest, List.length_take]
    rw [Nat.min_eq_left (by omega)]

/-- Each block has as many ECC codewords as it has codewords beside its data (R234). -/
theorem map_length_blockEccs {ds es : List (List Byte)} {bs : List (Nat × Nat)} (hl : ds.length = bs.length)
    (h : blockEccs ds bs = .ok es) : es.map List.length = bs.map (fun b => b.1 - b.2) := by
  induction bs generalizing ds es with
  | nil =>
    obtain rfl := List.length_eq_zero_iff.mp hl
    obtain rfl : [] = es := Except.ok.inj h
    rfl
  | cons b bs ih =>
    cases ds with
    | nil => simp at hl
    | cons d ds =>
      simp only [blockEccs] at h
      split at h
      · simp at h
      · split at h
        · simp at h
        · rename_i e he _ es' hes
          obtain rfl : e :: es' = es := Except.ok.inj h
          simp only [List.map_cons, length_rsecc he, ih (by simpa using hl) hes]

/-! ### Interleaving -/

/-- Of the numbers below `n`, `min m n` are below `m`. -/
theorem sum_range_ite_lt (m n : Nat) : ((List.range n).map (fun i => if i < m then 1 else 0)).sum = min m n := by
  induction n with
  | zero => simp
  | succ n ih =>
    rw [List.range_succ, List.map_append, List.sum_append, ih, List.map_singleton, List.sum_singleton]
    split <;> omega

/-- Column `i` has one byte for each list that reaches it (R235). -/
theorem length_column_cons (x : List Byte) (xs : List (List Byte)) (i : Nat) :
    ((x :: xs).filterMap (fun x => x[i]?)).length =
      (if i < x.length then 1 else 0) + (xs.filterMap (fun x => x[i]?)).length := by
  by_cases h : i < x.length
  · simp [h, Nat.add_comm]
  · simp [h]

/-- As many columns as the longest list has bytes hold every byte. -/
theorem sum_length_columns {n : Nat} {xs : List (List Byte)} (h : ∀ x ∈ xs, x.length ≤ n) :
    ((List.range n).map (fun i => (xs.filterMap (fun x => x[i]?)).length)).sum = (xs.map List.length).sum := by
  induction xs with
  | nil => simp
  | cons x xs ih =>
    obtain ⟨hx, hxs⟩ := List.forall_mem_cons.mp h
    simp only [length_column_cons, List.sum_map_add, sum_range_ite_lt, ih hxs, List.map_cons, List.sum_cons,
      Nat.min_eq_left hx]

/-- Interleaving keeps every byte (R235). -/
theorem length_interleave (xs : List (List Byte)) : (interleave xs).length = (xs.map List.length).sum := by
  rw [interleave, List.length_flatMap]
  refine sum_length_columns fun x hx => ?_
  rw [List.foldl_max]
  exact (List.le_max?_getD_of_mem (List.mem_map_of_mem hx)).trans (le_max_right _ _)

/-- The codeword sequence has every codeword of every block (R237). The table has no block with more data
codewords than codewords. -/
theorem length_codewordSequence {d c : List Byte} {bs : List (Nat × Nat)}
    (hd : (bs.map Prod.snd).sum ≤ d.length) (hbs : ∀ b ∈ bs, b.2 ≤ b.1) (h : codewordSequence d bs = .ok c) :
    c.length = (bs.map Prod.fst).sum := by
  have data := map_length_splitBlocks hd
  have blocks : (splitBlocks d bs).length = bs.length := by simpa using congrArg List.length data
  simp only [codewordSequence] at h
  split at h
  · simp at h
  · rename_i es hes
    obtain rfl : _ = c := Except.ok.inj h
    rw [List.length_append, length_interleave, length_interleave, data, map_length_blockEccs blocks hes,
      ← List.sum_map_add]
    exact congrArg List.sum (List.map_congr_left fun b hb => Nat.add_sub_cancel' (hbs b hb))

/-- No block of the table has more data codewords than codewords (R190). -/
theorem data_le_total_of_mem_blockList {v : Nat} (hv : v ≤ 40) {lv : Level} {b : Nat × Nat}
    (hb : b ∈ blockList v lv) : b.2 ≤ b.1 := by
  have all : ∀ lv ∈ [Level.L, .M, .Q, .H], ∀ v < 41, ∀ g ∈ blockGroups v lv, g.data ≤ g.total := by
    decide +kernel
  obtain ⟨g, hg, hb⟩ := List.mem_flatMap.mp hb
  obtain rfl := List.eq_of_mem_replicate hb
  exact all lv (by cases lv <;> simp) v (by omega) g hg

/-- A build stores its data codewords and its codewords whole; neither fills its window (R232). -/
theorem buildCodewords_stores {s t : State} (hv : s.qrVer.toNat ≤ 40) (h : buildCodewords s = .ok t) :
    ∃ d c, t = s.storeCodewords d c d.length c.length ∧ d.length < 4096 ∧ c.length < 4096 := by
  obtain ⟨d, c, hd, hc, rfl⟩ := buildCodewords_ok h
  have dlen := length_buildData hd
  have clen := (length_codewordSequence (by rw [sum_data_blockList, dlen])
    (fun _ => data_le_total_of_mem_blockList hv) hc).trans (sum_total_blockList _ _)
  obtain ⟨dlt, clt⟩ := codewordCounts_lt hv (levelOf s.cfg.ecc)
  exact ⟨d, c, by rw [dlen, clen], dlen ▸ dlt, clen ▸ clt⟩

end Sys2Proof.Machine

namespace Sys2Proof.Machine

/-! ## The RAM bytes (spec/20_memory.md R68, R71, R72; spec/43_tables_bitbuf.md R205) -/

/-! ### What an operation on one window leaves in the others -/

theorem read_setWindow_other (m : Memory) {w x : Window} (l : List Byte) {k : Nat} (h : w ≠ x) (hk : k < w.size) :
    (m.setWindow x.base x.size l).read (w.base + k) = m.read (w.base + k) :=
  read_setWindow_of_holds m (holds_other h hk)

theorem read_writeAll_other (m : Memory) {w x : Window} {l : List Byte} {j k : Nat} (h : w ≠ x)
    (hin : j + l.length ≤ x.size) (hk : k < w.size) :
    (m.writeAll (x.base + j) l).read (w.base + k) = m.read (w.base + k) := by
  have := windows_disjoint h
  rw [Memory.read_writeAll, if_neg (by omega)]

theorem isSome_setWindow_self (m : Memory) (w : Window) {l : List Byte} {k : Nat} (hk : k < l.length)
    (hw : k < w.size) : ((m.setWindow w.base w.size l).read (w.base + k)).isSome = true := by
  rw [Memory.read_setWindow_inside (by omega) (by omega)]
  simp [hk, hw]

/-! ### The listed bytes lie in RAM -/

theorem isRam_of_holds {w : Window} {a : Nat} (hw : w ∈ [Window.pa, .pb, .pr, .inbuf, .bb, .cw])
    (h : w.holds a = true) : isRam a = true := by
  simp only [List.mem_cons, List.not_mem_nil, or_false] at hw
  rcases hw with rfl | rfl | rfl | rfl | rfl | rfl <;> simp [isRam, h]

theorem holds_iff {w : Window} {a : Nat} : w.holds a = true ↔ w.base ≤ a ∧ a < w.base + w.size := by
  simp [Window.holds]

/-- Every listed byte lies in a RAM window. -/
def Memory.inRam (m : Memory) : Prop := ∀ c ∈ m, isRam c.1 = true

theorem inRam_setWindow {m : Memory} (h : m.inRam) {w : Window} (l : List Byte)
    (hw : w ∈ [Window.pa, .pb, .pr, .inbuf, .bb, .cw]) : (m.setWindow w.base w.size l).inRam := fun c hc => by
  obtain hin | ⟨hm, -⟩ := Memory.mem_setWindow hc
  · exact isRam_of_holds hw (holds_iff.mpr hin)
  · exact h c hm

theorem inRam_write {m : Memory} (h : m.inRam) {a : Nat} (ha : isRam a = true) (b : Byte) :
    (m.write a b).inRam := fun c hc => by
  obtain rfl | hm := Memory.mem_write hc
  · exact ha
  · exact h c hm

theorem inRam_writeAll {m : Memory} (h : m.inRam) {a : Nat} {l : List Byte}
    (ha : ∀ k < l.length, isRam (a + k) = true) : (m.writeAll a l).inRam := by
  induction l generalizing m a with
  | nil => exact h
  | cons b l ih =>
    refine ih (inRam_write h (ha 0 (by simp)) b) fun k hk => ?_
    rw [Nat.add_right_comm]
    exact ha (k + 1) (by simpa using hk)

/-! ### The bits of the bit buffer -/

theorem genOf_bb (s : State) {k : Nat} (hk : k < 4096) : s.genOf (Window.base .bb + k) = s.bbGen := by
  rw [State.genOf, if_neg (by simp only [Window.base, Window.size]; omega),
    if_pos (by simp only [Window.base, Window.size]; omega)]

/-- A bit inside BB depends on what is listed at its byte and on BB's generation only. -/
theorem bbBit_congr {s t : State} {p : Nat} (hp : p < 32768)
    (hm : t.mem.read (Window.base .bb + p / 8) = s.mem.read (Window.base .bb + p / 8)) (hg : t.bbGen = s.bbGen) :
    t.bbBit p = s.bbBit p := by
  have byte : t.ramByte (Window.base .bb + p / 8) = s.ramByte (Window.base .bb + p / 8) :=
    ramByte_congr hm (by rw [genOf_bb t (by omega), genOf_bb s (by omega), hg])
  simp only [State.bbBit, byte]

/-- What BB_PUTBIT stores: the begun byte, or a fresh one, with the bit in its place (R205). -/
theorem appendBit_stores {b : Bool} {s t : State} (h : appendBit b s = .ok t) :
    ∃ old, (s.bbLen.toNat % 8 = 0 → old = 0) ∧
      (s.bbLen.toNat % 8 ≠ 0 → old = s.ramByte (Window.base .bb + s.bbLen.toNat / 8)) ∧
      t = s.storeBit (s.bbLen.toNat / 8) (old ||| BitVec.ofNat 8 (b.toNat <<< (7 - s.bbLen.toNat % 8)))
        (s.bbLen.toNat + 1) := by
  simp only [Machine.appendBit] at h
  split at h
  · simp at h
  · exact ⟨_, fun h0 => if_pos h0, fun h0 => if_neg h0, (Except.ok.inj h).symm⟩

/-- A bit moved into place `i` leaves the other places of the byte. -/
theorem getLsbD_or_shifted {old : Byte} {i j : Nat} (b : Bool) (hj : j ≠ i) :
    (old ||| BitVec.ofNat 8 (b.toNat <<< i)).getLsbD j = old.getLsbD j := by
  have : (b.toNat <<< i).testBit j = false := by
    cases b with
    | false => simp
    | true => simpa [Nat.one_shiftLeft] using Nat.testBit_two_pow_of_ne hj.symm
  simp [BitVec.getLsbD_ofNat, this]

/-! ### The invariant -/

/-- The two lists read alike in a window. -/
def Memory.Agree (w : Window) (m n : Memory) : Prop := ∀ k < w.size, n.read (w.base + k) = m.read (w.base + k)

theorem agree_setWindow (m : Memory) {w x : Window} (l : List Byte) (h : w ≠ x) :
    Memory.Agree w m (m.setWindow x.base x.size l) := fun _ hk => read_setWindow_other m l h hk

namespace State.BytesInv
variable {s t : State}

theorem pr_of_agree (h : s.BytesInv) (hp : s.prLen.toNat ≤ 256) {m : Memory} (hm : Memory.Agree .pr s.mem m) {k : Nat}
    (hk : k < s.prLen.toNat) : (m.read (Window.base .pr + k)).isSome = true := by
  rw [hm k (hk.trans_le hp)]
  exact h.pr k hk

theorem bb_of_agree (h : s.BytesInv) (hb : s.bbLen.toNat ≤ 32768) {m : Memory} (hm : Memory.Agree .bb s.mem m) {k : Nat}
    (hk : 8 * k < s.bbLen.toNat) : (m.read (Window.base .bb + k)).isSome = true := by
  rw [hm k (show k < 4096 by omega)]
  exact h.bb k hk

theorem bbTail_of_agree (h : s.BytesInv) (hb : s.bbLen.toNat ≤ 32768) (hm : Memory.Agree .bb s.mem t.mem)
    (hg : t.bbGen = s.bbGen) {p : Nat} (h1 : s.bbLen.toNat ≤ p) (h2 : p < 8 * ((s.bbLen.toNat + 7) / 8)) :
    t.bbBit p = false := by
  rw [bbBit_congr (by omega) (hm _ (show p / 8 < 4096 by omega)) hg]
  exact h.bbTail p h1 h2

theorem cw_of_agree (h : s.BytesInv) {m : Memory} (hm : Memory.Agree .cw s.mem m) (hv : s.cwValid = true)
    {k : Nat} (hk : k < s.cwTotal.toNat) : (m.read (Window.base .cw + k)).isSome = true := by
  rw [hm k (show k < 4096 by omega)]
  exact h.cw hv k hk

/-! ### Each operation on RAM -/

theorem writeRam (hr : s.RegInv) (h : s.BytesInv) {w : Window} {k : Nat} {bytes : List Byte}
    (hw : w = .pa ∨ w = .pb ∨ w = .inbuf) (hin : k + bytes.length ≤ w.size) :
    (s.writeRam (w.base + k) bytes).BytesInv := by
  have agree {x : Window} (hx : x = .pr ∨ x = .bb ∨ x = .cw) :
      Memory.Agree x s.mem (s.writeRam (w.base + k) bytes).mem := fun j hj =>
    read_writeAll_other s.mem (by rintro rfl; rcases hx with rfl | rfl | rfl <;> simp at hw) hin hj
  exact
  { wf := Memory.writeAll_wf h.wf _ _
    inRam := inRam_writeAll h.inRam fun j hj =>
      isRam_of_holds (w := w) (by rcases hw with rfl | rfl | rfl <;> simp) (holds_iff.mpr (by omega))
    pr := fun _ hj => h.pr_of_agree hr.prLen_le (agree (.inl rfl)) hj
    bb := fun _ hj => h.bb_of_agree hr.bbLen_le (agree (.inr (.inl rfl))) hj
    bbTail := fun _ h1 h2 => h.bbTail_of_agree hr.bbLen_le (agree (.inr (.inl rfl))) rfl h1 h2
    cw := fun hv _ hj => h.cw_of_agree (agree (.inr (.inr rfl))) hv hj }

theorem storePr (hr : s.RegInv) (h : s.BytesInv) {p : List Byte} (hp : p.length ≤ 256) :
    (s.storePr p).BytesInv where
  wf := Memory.setWindow_wf h.wf _ _ _
  inRam := inRam_setWindow h.inRam p (by simp)
  pr := fun k hk => by
    rw [storePr_prLen, BitVec.toNat_ofNat] at hk
    exact isSome_setWindow_self s.mem .pr (by omega) (show k < 256 by omega)
  bb := fun _ hk => h.bb_of_agree hr.bbLen_le (agree_setWindow s.mem p (by simp)) hk
  bbTail := fun _ h1 h2 =>
    h.bbTail_of_agree (t := s.storePr p) hr.bbLen_le (agree_setWindow s.mem p (by simp)) rfl h1 h2
  cw := fun hv _ hk => h.cw_of_agree (agree_setWindow s.mem p (by simp)) hv hk

theorem clearBb (hr : s.RegInv) (h : s.BytesInv) : s.clearBb.BytesInv where
  wf := Memory.setWindow_wf h.wf _ _ _
  inRam := inRam_setWindow h.inRam [] (by simp)
  pr := fun _ hk => h.pr_of_agree hr.prLen_le (agree_setWindow s.mem [] (by simp)) hk
  bb := by simp
  bbTail := by simp
  cw := fun hv _ hk => h.cw_of_agree (agree_setWindow s.mem [] (by simp)) hv hk

theorem invalidate (h : s.BytesInv) (hp : s.prLen.toNat ≤ 256) (hb : s.bbLen.toNat ≤ 32768) :
    s.invalidate.BytesInv where
  wf := Memory.setWindow_wf h.wf _ _ _
  inRam := inRam_setWindow h.inRam [] (by simp)
  pr := fun _ hk => h.pr_of_agree hp (agree_setWindow s.mem [] (by simp)) hk
  bb := fun _ hk => h.bb_of_agree hb (agree_setWindow s.mem [] (by simp)) hk
  bbTail := fun _ h1 h2 =>
    h.bbTail_of_agree (t := s.invalidate) hb (agree_setWindow s.mem [] (by simp)) rfl h1 h2
  cw := by simp

/-- A build leaves whole bytes in BB, so its last byte has no bits beyond BB_LEN (R232). -/
theorem storeCodewords (hr : s.RegInv) (h : s.BytesInv) {d c : List Byte} (hd : d.length < 4096)
    (hc : c.length < 4096) : (s.storeCodewords d c d.length c.length).BytesInv := by
  have len : (s.storeCodewords d c d.length c.length).bbLen.toNat = 8 * d.length := by
    rw [storeCodewords_bbLen, BitVec.toNat_ofNat]
    omega
  exact
  { wf := Memory.setWindow_wf (Memory.setWindow_wf h.wf _ _ _) _ _ _
    inRam := inRam_setWindow (inRam_setWindow h.inRam d (by simp)) c (by simp)
    pr := fun k hk => h.pr_of_agree hr.prLen_le (m := (s.storeCodewords d c d.length c.length).mem) (fun j hj =>
      (read_setWindow_other _ c (x := .cw) (by simp) hj).trans (read_setWindow_other _ d (x := .bb) (by simp) hj)) hk
    bb := fun k hk => by
      have hk : k < d.length := by omega
      have kept := read_setWindow_other (s.mem.setWindow (Window.base .bb) (Window.size .bb) d) (w := .bb) (x := .cw)
        c (by simp) (show k < 4096 by omega)
      rw [storeCodewords_mem, kept]
      exact isSome_setWindow_self s.mem .bb hk (show k < 4096 by omega)
    bbTail := fun p h1 h2 => by omega
    cw := fun _ k hk => by
      rw [storeCodewords_cwTotal, BitVec.toNat_ofNat] at hk
      exact isSome_setWindow_self _ .cw (by omega) (show k < 4096 by omega) }

theorem softReset (h : s.BytesInv) : s.softReset.BytesInv where
  wf := Memory.setWindow_wf (Memory.setWindow_wf (Memory.setWindow_wf h.wf _ _ _) _ _ _) _ _ _
  inRam := inRam_setWindow (inRam_setWindow (inRam_setWindow h.inRam [] (by simp)) [] (by simp)) [] (by simp)
  pr := by simp
  bb := by simp
  bbTail := by simp
  cw := by simp

/-! ### The bit buffer's commands -/

theorem appendBit {b : Bool} (hr : s.RegInv) (h : s.BytesInv) (hs : appendBit b s = .ok t) : t.BytesInv := by
  have hlen := (appendBit_ok hs).1
  obtain ⟨old, fresh, begun, rfl⟩ := appendBit_stores hs
  have len (v : Byte) : (s.storeBit (s.bbLen.toNat / 8) v (s.bbLen.toNat + 1)).bbLen.toNat = s.bbLen.toNat + 1 := by
    rw [storeBit_bbLen, BitVec.toNat_ofNat]
    omega
  have agree (v : Byte) {x : Window} (hx : x ≠ .bb) :
      Memory.Agree x s.mem (s.storeBit (s.bbLen.toNat / 8) v (s.bbLen.toNat + 1)).mem := fun j hj =>
    Memory.read_write_other _ _ (by
      have := windows_disjoint hx
      simp only [Window.base, Window.size] at *
      omega)
  exact
  { wf := Memory.write_wf h.wf _ _
    inRam := inRam_write h.inRam (isRam_of_holds (w := .bb) (by simp)
      (holds_iff.mpr (by simp only [Window.base, Window.size]; omega))) _
    pr := fun _ hk => h.pr_of_agree hr.prLen_le (agree _ (by simp)) hk
    bb := fun k hk => by
      rw [len] at hk
      rw [storeBit_mem]
      by_cases hlast : k = s.bbLen.toNat / 8
      · rw [hlast, Memory.read_write_same]
        rfl
      · rw [Memory.read_write_other _ _ (by omega)]
        exact h.bb k (by omega)
    bbTail := fun p h1 h2 => by
      rw [len] at h1 h2
      have byte : p / 8 = s.bbLen.toNat / 8 := by omega
      have clear : old.getLsbD (7 - p % 8) = false := by
        by_cases h0 : s.bbLen.toNat % 8 = 0
        · simp [fresh h0]
        · rw [begun h0, ← byte]
          exact h.bbTail p (by omega) (by omega)
      rw [State.bbBit, byte, ramByte_of_listed (Memory.read_write_same _ _ _), getLsbD_or_shifted b (by omega)]
      exact clear
    cw := fun hv _ hk => h.cw_of_agree (agree _ (by simp)) hv hk }

theorem appendBits {bs : List Bool} (hr : s.RegInv) (h : s.BytesInv) (hs : appendBits bs s = .ok t) :
    t.BytesInv := by
  induction bs generalizing s with
  | nil => exact Except.ok.inj hs ▸ h
  | cons b bs ih =>
    obtain ⟨u, hu, ht⟩ := appendBits_cons_ok hs
    exact ih (hr.appendBit hu) (h.appendBit hr hu) ht

/-! ### Operations that leave RAM alone -/

theorem setRes0 (h : s.BytesInv) (v : Word) : (s.setRes0 v).BytesInv := { h with }

theorem setRes (h : s.BytesInv) (v w : Word) : (s.setRes v w).BytesInv := { h with }

theorem setCrc (h : s.BytesInv) (c : BitVec 16) : (s.setCrc c).BytesInv := { h with }

theorem setVersion (h : s.BytesInv) (v : BitVec 6) : (s.setVersion v).BytesInv := { h with }

theorem clearSegs (h : s.BytesInv) : s.clearSegs.BytesInv := { h with }

theorem addSeg (h : s.BytesInv) (g : Segment) : (s.addSeg g).BytesInv := { h with }

theorem setQrState (h : s.BytesInv) (q : QrState) : (s.setQrState q).BytesInv := { h with }

theorem choose (h : s.BytesInv) (m : BitVec 3) : (s.choose m).BytesInv := { h with }

theorem storeMatrix (h : s.BytesInv) (g : Grid) (n : Nat) (m : BitVec 3) (b : Bool) :
    (s.storeMatrix g n m b).BytesInv := { h with }

theorem storePenalty (h : s.BytesInv) (n a b c d : Nat) : (s.storePenalty n a b c d).BytesInv := { h with }

theorem storeScores (h : s.BytesInv) (l : List Nat) : (s.storeScores l).BytesInv := { h with }

theorem layOut (h : s.BytesInv) (m : BitVec 3) (b : Bool) : (s.layOut m b).BytesInv := h.storeMatrix _ _ _ _

theorem selectAuto (h : s.BytesInv) : s.selectAuto.BytesInv :=
  (((h.storeScores _).storePenalty _ _ _ _ _).layOut _ _).choose _

/-! ### The polynomial commands -/

theorem polyMod (hr : s.RegInv) (h : s.BytesInv) (hs : polyModOutcome s = .ok t) : t.BytesInv := by
  obtain ⟨hlen, -, r, hp, rfl⟩ := polyModOutcome_ok hs
  refine h.storePr hr ?_
  have short := (pmod_ok hp).1
  simp only [polyLenOk, Bool.and_eq_true, decide_eq_true_eq] at hlen
  simp only [State.polyA, State.ramBytes, List.length_map, List.length_range, Config.polyMax] at *
  omega

theorem rsEcc {k : Byte} (hr : s.RegInv) (h : s.BytesInv) (hs : rsEccOutcome k s = .ok t) : t.BytesInv := by
  obtain ⟨-, e, he, rfl⟩ := rsEccOutcome_ok hs
  exact h.storePr hr (by have := length_rsecc he; omega)

/-! ### The builder's commands -/

theorem buildCodewords (hr : s.RegInv) (h : s.BytesInv) (hs : buildCodewords s = .ok t) : t.BytesInv := by
  obtain ⟨d, c, rfl, hd, hc⟩ := buildCodewords_stores hr.ver_le hs
  exact h.storeCodewords hr hd hc

theorem ensureCw (hr : s.RegInv) (h : s.BytesInv) (hs : ensureCw s = .ok t) : t.BytesInv := by
  obtain ⟨-, rfl⟩ | ⟨-, hb⟩ := ensureCw_ok hs
  · exact h
  · exact h.buildCodewords hr hb

theorem clear (hr : s.RegInv) (h : s.BytesInv) (hs : clearOutcome s = .ok t) : t.BytesInv := by
  obtain rfl : _ = t := Except.ok.inj hs
  exact (((h.invalidate hr.prLen_le hr.bbLen_le).setVersion 0).clearSegs).setQrState _

theorem append (hr : s.RegInv) (h : s.BytesInv) (hs : appendOutcome s = .ok t) : t.BytesInv := by
  obtain ⟨-, -, -, rfl⟩ := appendOutcome_ok hs
  exact (((h.addSeg _).invalidate hr.prLen_le hr.bbLen_le).setVersion 0).setQrState _

theorem selectedVersion (hr : s.RegInv) (h : s.BytesInv) (v : BitVec 6) : (s.selectedVersion v).BytesInv :=
  ((h.invalidate hr.prLen_le hr.bbLen_le).setVersion v).setQrState _

theorem selVer (hr : s.RegInv) (h : s.BytesInv) (hs : selVerOutcome s = .ok t) : t.BytesInv := by
  obtain ⟨-, ⟨-, v, -, rfl⟩ | ⟨-, rfl⟩⟩ := selVerOutcome_ok hs
  · exact h.selectedVersion hr _
  · exact h.selectedVersion hr _

theorem layout {test : Bool} {m : BitVec 3} (hr : s.RegInv) (h : s.BytesInv)
    (hs : layoutOutcome test m s = .ok t) : t.BytesInv := by
  obtain ⟨-, u, hu, rfl⟩ := layoutOutcome_ok hs
  exact ((h.ensureCw hr hu).layOut _ _).setQrState _

theorem maskSel (hr : s.RegInv) (h : s.BytesInv) (hs : maskSelOutcome s = .ok t) : t.BytesInv := by
  obtain ⟨-, ⟨-, u, hu, rfl⟩ | ⟨-, rfl⟩⟩ := maskSelOutcome_ok hs
  · exact (h.ensureCw hr hu).selectAuto.setQrState _
  · exact (h.choose _).setQrState _

theorem finish (hr : s.RegInv) (h : s.BytesInv) (hs : finalOutcome s = .ok t) : t.BytesInv := by
  obtain ⟨-, -, u, hu, rfl⟩ := finalOutcome_ok hs
  exact ((h.ensureCw hr hu).layOut _ _).setQrState _

theorem make (hr : s.RegInv) (h : s.BytesInv) (hs : makeOutcome s = .ok t) : t.BytesInv :=
  (makeOutcome_keeps (P := fun s => s.RegInv ∧ s.BytesInv)
    (fun h hs => ⟨h.1.selVer hs, h.2.selVer h.1 hs⟩)
    (fun h hs => ⟨h.1.codewords hs, h.2.buildCodewords h.1 (codewordsOutcome_ok hs).2⟩)
    (fun h hs => ⟨h.1.maskSel hs, h.2.maskSel h.1 hs⟩)
    (fun h hs => ⟨h.1.finish hs, h.2.finish h.1 hs⟩) ⟨hr, h⟩ hs).2

theorem resByte {r : Except ErrorCode Byte} (h : s.BytesInv) (hs : resByte s r = .ok t) : t.BytesInv := by
  obtain ⟨b, -, rfl⟩ := resByte_ok hs
  exact h.setRes0 _

theorem outcome {i : Instr} (hr : s.RegInv) (h : s.BytesInv) (hs : outcome i s = .ok t) : t.BytesInv := by
  cases i with
  | nop => exact Except.ok.inj hs ▸ h
  | gfMul | gfExp => exact h.resByte (r := .ok _) hs
  | gfDiv | gfInv | gfLog => exact h.resByte hs
  | polyMul =>
    obtain ⟨-, -, hl, rfl⟩ := polyMulOutcome_ok hs
    exact h.storePr hr hl
  | polyMod => exact h.polyMod hr hs
  | rsGen k => exact Except.ok.inj hs ▸ h.storePr hr (by have := length_gen_le k.toNat; omega)
  | rsEcc => exact h.rsEcc hr (ifLegal_ok hs).2
  | bbClear => exact Except.ok.inj hs ▸ h.clearBb hr
  | bbPut => exact h.appendBits hr (bbPutOutcome_ok (ifLegal_ok hs).2).2
  | bbPutBit => exact h.appendBit hr (ifLegal_ok hs).2
  | qrClear => exact h.clear hr hs
  | qrConfig =>
    obtain ⟨-, rfl⟩ := configOutcome_ok (ifLegal_ok hs).2
    exact { h with }
  | qrAppend => exact h.append hr hs
  | qrSelVer => exact h.selVer hr hs
  | qrCodewords => exact h.buildCodewords hr (codewordsOutcome_ok hs).2
  | qrLayout => exact h.layout hr (ifLegal_ok hs).2
  | qrPenalty => exact (penaltyOutcome_ok hs).2 ▸ h.storePenalty _ _ _ _ _
  | qrMaskSel => exact h.maskSel hr hs
  | qrFinal => exact h.finish hr hs
  | qrMake => exact h.make hr hs
  | qrFmtBch | qrVerBch => exact Except.ok.inj (ifLegal_ok hs).2 ▸ h.setRes0 _
  | tblQuery | tblAlign => exact Except.ok.inj (ifLegal_ok hs).2 ▸ h.setRes _ _
  | crcInit | crcByte => exact Except.ok.inj hs ▸ h.setCrc _
  | crcBuf => exact (crcBufOutcome_ok hs).2 ▸ h.setCrc _

theorem exec {i : Instr} (hr : s.RegInv) (h : s.BytesInv) (hs : exec i s = .next t) : t.BytesInv := by
  obtain ⟨u, hu, rfl⟩ | ⟨c, -, rfl⟩ := exec_next hs
  · exact { h.outcome hr hu with }
  · exact { h with }

end State.BytesInv

/-- RegInv and BytesInv together survive every turn. -/
theorem bytesInv_keptByTurns : KeptByTurns (fun s => s.RegInv ∧ s.BytesInv) where
  setTurns := fun ts h => ⟨regInv_keptByTurns.setTurns ts h.1, { h.2 with }⟩
  respond := fun r h => ⟨regInv_keptByTurns.respond r h.1, { h.2 with }⟩
  drawn := fun h => ⟨regInv_keptByTurns.drawn h.1, { h.2 with }⟩
  softReset := fun h => ⟨regInv_keptByTurns.softReset h.1, h.2.softReset⟩
  setIrqEn := fun b h => ⟨regInv_keptByTurns.setIrqEn b h.1, { h.2 with }⟩
  clearStatus := fun v h => ⟨regInv_keptByTurns.clearStatus v h.1, { h.2 with }⟩
  overrun := fun h => ⟨regInv_keptByTurns.overrun h.1, { h.2 with }⟩
  accept := fun w h => ⟨regInv_keptByTurns.accept w h.1, { h.2 with }⟩
  setArg0 := fun v h => ⟨regInv_keptByTurns.setArg0 v h.1, { h.2 with }⟩
  setArg1 := fun v h => ⟨regInv_keptByTurns.setArg1 v h.1, { h.2 with }⟩
  setPaLen := fun v h => ⟨regInv_keptByTurns.setPaLen v h.1, { h.2 with }⟩
  setPbLen := fun v h => ⟨regInv_keptByTurns.setPbLen v h.1, { h.2 with }⟩
  writeRam := fun hw hin h => ⟨regInv_keptByTurns.writeRam hw hin h.1, h.2.writeRam h.1 hw hin⟩
  fail := fun c h => ⟨h.1.fail c, { h.2 with }⟩
  exec := fun h hx => ⟨h.1.exec hx, h.2.exec h.1 hx⟩

/-- Settles O59: each operation on RAM lists its bytes in its own window and leaves the other windows, and what a
length covers is what its command has stored. -/
theorem bytesInvKept : Obligations.BytesInvKept :=
  fun _ _ hr hb hst => (bytesInv_keptByTurns.step ⟨hr, hb⟩ hst).2

end Sys2Proof.Machine

/-! ## Host accesses: which stop, and what the others do (spec/20_memory.md R60-R76) -/

namespace Sys2Proof.Machine

/-! ### The address map -/

theorem holds_of_windowAt {w : Window} {off : Nat} (h : windowAt off = some w) : w.holds off = true :=
  List.find?_some (p := fun x : Window => x.holds off) h

/-- An offset lies in one window at most, so the map finds the window that holds it (R61). -/
theorem windowAt_of_holds {w : Window} {off : Nat} (h : w.holds off = true) : windowAt off = some w := by
  cases hx : windowAt off with
  | none => exact absurd h (List.find?_eq_none.mp hx w (by cases w <;> simp [windows]))
  | some x =>
    by_cases hw : w = x
    · rw [hw]
    · have hold := holds_iff.mp h
      have hold' := holds_iff.mp (holds_of_windowAt hx)
      have := windows_disjoint hw
      omega

theorem windowAt_eq_none {off : Nat} (h : ∀ w : Window, w.holds off = false) : windowAt off = none :=
  List.find?_eq_none.mpr fun w _ => by simp [h w]

theorem window_base_ge (w : Window) : 0x200 ≤ w.base := by cases w <;> simp [Window.base]

theorem window_end_le (w : Window) : w.base + w.size ≤ 0x1B100 := by cases w <;> simp [Window.base, Window.size]

theorem targetOf_unmapped {off : Nat} (width : Width) (hreg : 0x200 ≤ off) (h : ∀ w : Window, w.holds off = false) :
    targetOf width off = .error .unmapped := by
  rw [targetOf, if_neg (by omega), windowAt_eq_none h]

theorem targetOf_reg_misaligned {width : Width} {off : Nat} (hreg : off < 0x200)
    (h : width ≠ .full ∨ off % 4 ≠ 0) : targetOf width off = .error .misaligned := by
  rw [targetOf, if_pos hreg, if_neg (by tauto)]

/-- An access of a window: admitted when it is aligned and ends inside (R63). -/
theorem targetOf_of_holds {w : Window} {off : Nat} (width : Width) (h : w.holds off = true) :
    targetOf width off =
      if off % width.bytes = 0 ∧ off + width.bytes ≤ w.base + w.size then .ok (.win w (off - w.base))
      else .error .misaligned := by
  have := window_base_ge w
  have := holds_iff.mp h
  rw [targetOf, if_neg (by omega), windowAt_of_holds h]

theorem toNat_windowOffset {w : Window} {k : Nat} (hk : k < w.size) :
    (BitVec.ofNat 17 (w.base + k)).toNat = w.base + k := by
  have := window_end_le w
  rw [BitVec.toNat_ofNat]
  omega

theorem width_bytes_pos (width : Width) : 0 < width.bytes := by cases width <;> simp [Width.bytes]

/-- Every window begins at a multiple of every width (R61). -/
theorem base_mod_bytes (w : Window) (width : Width) : w.base % width.bytes = 0 := by
  cases w <;> cases width <;> rfl

/-- An aligned access inside a window addresses its bytes from index `k` on (R63). -/
theorem targetOf_window {w : Window} {width : Width} {k : Nat} (hal : k % width.bytes = 0)
    (hin : k + width.bytes ≤ w.size) :
    targetOf width (BitVec.ofNat 17 (w.base + k)).toNat = .ok (.win w k) := by
  have := width_bytes_pos width
  have hk : k < w.size := by omega
  rw [toNat_windowOffset hk, targetOf_of_holds (w := w) width (holds_iff.mpr (by omega)), if_pos, Nat.add_sub_cancel_left]
  exact ⟨by rw [Nat.add_mod, base_mod_bytes, hal]; simp, by omega⟩

/-! ### Accesses that stop -/

theorem hostAccess_busError {width : Width} {off : Offset} {c : BusCause} (v : Word) (s : State)
    (h : targetOf width off.toNat = .error c) :
    hostAccess (.read width off) s = .fault (.busError off c) ∧
      hostAccess (.write width off v) s = .fault (.busError off c) := by
  simp [hostAccess, h]

theorem hostAccess_hazard {width : Width} {off : Offset} {tg : Target} {s : State} (v : Word)
    (h : targetOf width off.toNat = .ok tg) (hb : s.busy = true) (ho : tg.isOperand = true) :
    hostAccess (.write width off v) s = .fault (.hostHazard off) := by
  simp [hostAccess, h, hb, ho]

theorem isOperand_window {w : Window} (hw : w ∈ [Window.pa, .pb, .inbuf]) (k : Nat) :
    (Target.win w k).isOperand = true := by
  simp only [List.mem_cons, List.not_mem_nil, or_false] at hw
  rcases hw with rfl | rfl | rfl <;> rfl

/-- Settles O54: the address map answers with the cause, and a busy block with the hazard of an operand. -/
theorem accessesThatStop : Obligations.AccessesThatStop := by
  refine ⟨fun s width off v h0 h1 h2 h3 h4 => ?_, fun s width off v h0 h => ?_, fun s width off v w hw h => ?_,
    fun s v hb => ⟨?_, ?_, ?_, ?_⟩, fun s width w k v hb hw hal hin => ?_⟩
  · refine hostAccess_busError v s (targetOf_unmapped width h0 fun w => holds_eq_false.mpr ?_)
    cases w <;> simp only [Window.base, Window.size] <;> omega
  · exact hostAccess_busError v s (targetOf_reg_misaligned h0 h)
  · refine hostAccess_busError v s ?_
    rw [targetOf_of_holds width hw, if_neg (by omega)]
  · exact hostAccess_hazard (tg := .reg .arg0) v rfl hb rfl
  · exact hostAccess_hazard (tg := .reg .arg1) v rfl hb rfl
  · exact hostAccess_hazard (tg := .reg .paLen) v rfl hb rfl
  · exact hostAccess_hazard (tg := .reg .pbLen) v rfl hb rfl
  · exact hostAccess_hazard v (targetOf_window hal hin) hb (isOperand_window hw k)

/-! ### A step stops exactly on a turn that is not safe -/

/-- An admitted write that is no HostHazard. -/
theorem hostAccess_write {width : Width} {off : Offset} {tg : Target} {s : State} (v : Word)
    (ht : targetOf width off.toNat = .ok tg) (hs : (s.busy && tg.isOperand) = false) :
    hostAccess (.write width off v) s = .next ((s.writeTarget width v tg).respond .wrote) := by
  simp [hostAccess, ht, hs]

theorem hostAccess_of_safe {a : HostAccess} {s : State} (h : accessSafe s.busy a = true) :
    ∃ t, hostAccess a s = .next t := by
  cases a with
  | read width off =>
    simp only [accessSafe] at h
    split at h
    · exact ⟨_, hostAccess_read ‹_›⟩
    · simp at h
  | write width off v =>
    simp only [accessSafe] at h
    split at h
    · exact ⟨_, hostAccess_write v ‹_› (by simpa only [Bool.not_eq_true'] using h)⟩
    · simp at h

/-- The faults of an access: a bus error of either cause, or a HostHazard while BUSY = 1 (R356). -/
theorem hostAccess_of_not_safe {a : HostAccess} {s : State} (h : accessSafe s.busy a = false) :
    ∃ off, hostAccess a s = .fault (.busError off .unmapped) ∨
      hostAccess a s = .fault (.busError off .misaligned) ∨
      (s.busy = true ∧ hostAccess a s = .fault (.hostHazard off)) := by
  cases a with
  | read width off =>
    cases ht : targetOf width off.toNat with
    | ok tg => simp [accessSafe, ht] at h
    | error c =>
      have stops := (hostAccess_busError 0 s ht).1
      cases c with
      | unmapped => exact ⟨off, .inl stops⟩
      | misaligned => exact ⟨off, .inr (.inl stops)⟩
  | write width off v =>
    cases ht : targetOf width off.toNat with
    | ok tg =>
      obtain ⟨hb, ho⟩ : s.busy = true ∧ tg.isOperand = true := by simpa [accessSafe, ht] using h
      exact ⟨off, .inr (.inr ⟨hb, hostAccess_hazard v ht hb ho⟩)⟩
    | error c =>
      have stops := (hostAccess_busError v s ht).2
      cases c with
      | unmapped => exact ⟨off, .inl stops⟩
      | misaligned => exact ⟨off, .inr (.inl stops)⟩

/-- A command's outcome, completed, is BUSY clear and DONE set; nothing stops it (R123). -/
theorem complete_completes (s : State) (r : Except ErrorCode State) :
    ∃ t, complete s r = .next t ∧ t.busy = false ∧ t.done = true := by
  cases r with
  | ok u => exact ⟨u.succeed, rfl, rfl, rfl⟩
  | error c => exact ⟨s.fail c, rfl, rfl, rfl⟩

/-- The engine's step always completes the pending command (R123, R128). -/
theorem engineStep_completes (s : State) : ∃ t, engineStep s = .next t ∧ t.busy = false ∧ t.done = true := by
  unfold engineStep
  split
  · exact complete_completes s _
  · rw [exec_eq_complete]
    exact complete_completes s _

theorem engineTurn_total (s : State) : ∃ t, engineTurn s = .next t := by
  unfold engineTurn
  split
  · obtain ⟨t, ht, -⟩ := engineStep_completes s
    exact ⟨t, ht⟩
  · exact ⟨s, rfl⟩

/-- Settles O6: only a host access can stop, and it stops where it is not safe. -/
theorem stepStopsExactlyOnUnsafeTurns : Obligations.StepStopsExactlyOnUnsafeTurns := by
  intro s
  cases hts : s.turns with
  | nil => exact ⟨fun _ => by simpa [step, hts] using engineTurn_total s, by simp [State.turnSafe, hts]⟩
  | cons turn ts =>
    cases turn with
    | engine =>
      exact ⟨fun _ => by simpa [step, hts] using engineTurn_total (s.setTurns ts), by simp [State.turnSafe, hts]⟩
    | host a =>
      have hstep : step s = hostAccess a (s.setTurns ts) := by simp [step, hts]
      have hsafe : s.turnSafe = accessSafe (s.setTurns ts).busy a := by simp [State.turnSafe, hts]
      rw [hstep, hsafe]
      exact ⟨hostAccess_of_safe, hostAccess_of_not_safe⟩

/-! ### A pending command and the reads made meanwhile -/

theorem run_succ_of_step {s t : State} (h : step s = .next t) (n : Nat) : core.run (n + 1) s = core.run n t := by
  have : core.step s = .next t := h
  simp only [Host.Core.run, this]

/-- A read leaves everything but its answer and the count of free values (R73). -/
theorem hostRead_frame (s : State) (width : Width) (tg : Target) :
    s.hostRead width tg =
      { s with resp := (s.hostRead width tg).resp, draws := (s.hostRead width tg).draws } := by
  obtain ⟨-, hr⟩ | ⟨-, v, hr⟩ := hostRead_cases s width tg
  · rw [hr]
    rfl
  · rw [hr]
    rfl

theorem hostAccess_safe_read {width : Width} {off : Offset} {busy : Bool} (s : State)
    (h : accessSafe busy (.read width off) = true) :
    ∃ t, hostAccess (.read width off) s = .next t ∧ t = { s with resp := t.resp, draws := t.draws } := by
  simp only [accessSafe] at h
  split at h
  · exact ⟨_, hostAccess_read ‹_›, hostRead_frame s width _⟩
  · simp at h

/-- Admitted reads run one after another, and after them the run goes on from the state they began in, but for
the answer and the count of free values. -/
theorem run_reads {rs : List HostAccess} {rest : List Turn} {s : State} (hts : s.turns = rs.map .host ++ rest)
    (hrs : ∀ a ∈ rs, accessSafe true a = true ∧ ∃ width off, a = .read width off) :
    ∃ u, u = { s with turns := rest, resp := u.resp, draws := u.draws } ∧
      ∀ n, core.run (rs.length + n) s = core.run n u := by
  induction rs generalizing s with
  | nil =>
    obtain rfl : s.turns = rest := hts
    exact ⟨s, rfl, fun n => by rw [List.length_nil, Nat.zero_add]⟩
  | cons a rs ih =>
    obtain ⟨⟨hsafe, width, off, rfl⟩, hall⟩ := List.forall_mem_cons.mp hrs
    obtain ⟨t, ht, frame⟩ := hostAccess_safe_read (s.setTurns (rs.map .host ++ rest)) hsafe
    have hstep : step s = .next t := by simpa [step, hts] using ht
    obtain ⟨u, hu, run⟩ := ih (s := t) (by rw [frame]; rfl) hall
    refine ⟨u, ?_, fun n => ?_⟩
    · rw [frame] at hu
      exact hu
    · rw [List.length_cons, Nat.add_right_comm, run_succ_of_step hstep, run n]

theorem engineStep_turns {s t : State} (h : engineStep s = .next t) : t.turns = s.turns := by
  unfold engineStep at h
  split at h
  · obtain rfl : s.fail _ = t := by simpa using h
    rfl
  · exact (keeps_exec h).turns

/-- With a command pending and the engine's turn placed last, or no turn at all, the step completes it. -/
theorem step_pending {s : State} (hb : s.busy = true) (hts : s.turns = [] ∨ s.turns = [.engine]) :
    ∃ t, step s = .next t ∧ t.busy = false ∧ t.done = true ∧ t.turns = [] := by
  obtain ⟨t, ht, hbusy, hdone⟩ := engineStep_completes (s.setTurns [])
  refine ⟨t, ?_, hbusy, hdone, engineStep_turns ht⟩
  obtain hts | hts := hts
  · have same : s.setTurns [] = s := by rw [← hts]; rfl
    rw [same] at ht
    simp [step, hts, engineTurn, hb, ht]
  · simp [step, hts, engineTurn, hb, ht]

/-- Settles O5: the reads leave the command and the block, and the engine's turn that follows completes it. -/
theorem pendingCommandOutlivesReads : Obligations.PendingCommandOutlivesReads := by
  intro s rs hb hrs hts
  obtain ⟨rest, hrest, hts⟩ : ∃ rest, (rest = [] ∨ rest = [.engine]) ∧ s.turns = rs.map .host ++ rest := by
    obtain hts | hts := hts
    · exact ⟨[], .inl rfl, by simpa using hts⟩
    · exact ⟨[.engine], .inr rfl, hts⟩
  obtain ⟨u, hu, run⟩ := run_reads hts hrs
  obtain ⟨t, ht, done⟩ := step_pending (s := u) (by rw [hu]; exact hb) (by rw [hu]; exact hrest)
  have dropped : s.turns.drop rs.length = rest := by simp [hts]
  exact ⟨u, t, run 0, dropped ▸ hu, (run 1).trans (run_succ_of_step ht 0), done⟩

/-! ### Writes -/

theorem writeTarget_readOnly_reg {r : Reg} (s : State) (width : Width) (v : Word)
    (hr : r ∉ [Reg.ctrl, .status, .cmd, .arg0, .arg1, .paLen, .pbLen]) :
    s.writeTarget width v (.reg r) = s ∧ (Target.reg r).isOperand = false := by
  cases r <;> simp_all [State.writeTarget, Target.isOperand]

theorem writeTarget_readOnly_window {w : Window} (s : State) (width : Width) (v : Word) (k : Nat)
    (hw : w ∈ [Window.exp, .log, .pr, .bb, .cw, .matrix]) :
    s.writeTarget width v (.win w k) = s ∧ (Target.win w k).isOperand = false := by
  cases w <;> simp_all [State.writeTarget, Target.isOperand]

/-- Settles O51: a read-only target is no operand, and its write leaves the state. -/
theorem readOnlyWritesAreIgnored : Obligations.ReadOnlyWritesAreIgnored := by
  refine ⟨fun s width off v r ht hr => ?_, fun s width off v w k ht hw => ?_⟩
  · obtain ⟨same, hop⟩ := writeTarget_readOnly_reg s width v hr
    rw [hostAccess_write v ht (by simp [hop]), same]
  · obtain ⟨same, hop⟩ := writeTarget_readOnly_window s width v k hw
    rw [hostAccess_write v ht (by simp [hop]), same]

/-! ### Little-endian windows -/

theorem writeTarget_window {w : Window} (s : State) (width : Width) (v : Word) (k : Nat)
    (hw : w ∈ [Window.pa, .pb, .inbuf]) :
    s.writeTarget width v (.win w k) = s.writeRam (w.base + k) (lowBytes v width.bytes) := by
  simp only [List.mem_cons, List.not_mem_nil, or_false] at hw
  rcases hw with rfl | rfl | rfl <;> rfl

theorem windowByte_eq_ramByte {w : Window} (s : State) (k : Nat) (hw : w ∈ [Window.pa, .pb, .inbuf]) :
    s.windowByte w k = s.ramByte (w.base + k) := by
  simp only [List.mem_cons, List.not_mem_nil, or_false] at hw
  rcases hw with rfl | rfl | rfl <;> rfl

theorem ramByte_writeRam_inside (s : State) {a j : Nat} {bytes : List Byte} (h : j < bytes.length) :
    (s.writeRam a bytes).ramByte (a + j) = bytes[j] :=
  ramByte_of_listed (by
    rw [writeRam_mem, Memory.read_writeAll, if_pos (by omega), Nat.add_sub_cancel_left,
      List.getElem?_eq_getElem h])

theorem ramByte_writeRam_outside (s : State) {a x : Nat} {bytes : List Byte}
    (h : x < a ∨ a + bytes.length ≤ x) : (s.writeRam a bytes).ramByte x = s.ramByte x :=
  ramByte_congr (by rw [writeRam_mem, Memory.read_writeAll, if_neg (by omega)]) rfl

/-- A byte of the block depends on RAM only through the byte of RAM at its own offset. -/
theorem byteAt_writeRam_outside (s : State) {a off : Nat} {bytes : List Byte}
    (h : off < a ∨ a + bytes.length ≤ off) : (s.writeRam a bytes).byteAt off = s.byteAt off := by
  unfold State.byteAt
  split
  · rename_i w hw
    have hold := holds_iff.mp (holds_of_windowAt hw)
    have ram : (s.writeRam a bytes).ramByte (w.base + (off - w.base)) = s.ramByte (w.base + (off - w.base)) :=
      ramByte_writeRam_outside s (by omega)
    cases w with
    | exp | log | matrix => rfl
    | pa | pb | pr | inbuf | bb | cw => exact ram
  · rfl

theorem readReg_writeRam (s : State) (a : Nat) (bytes : List Byte) (r : Reg) :
    (s.writeRam a bytes).readReg r = s.readReg r := by
  cases r <;> rfl

theorem lowBytes_succ (v : Word) (n : Nat) :
    lowBytes v (n + 1) = v.extractLsb' 0 8 :: lowBytes (v >>> 8) n := by
  have shifted (j : Nat) : v.extractLsb' (8 * (j + 1)) 8 = (v >>> 8).extractLsb' (8 * j) 8 := by
    ext i
    simp only [BitVec.getElem_extractLsb', BitVec.getLsbD_ushiftRight]
    congr 1
    omega
  simp [lowBytes, List.range_succ_eq_map, shifted]

/-- The low bytes of a value, read back in the same order, are its low bits (R62). -/
theorem littleEndian_lowBytes (v : Word) (n : Nat) : littleEndian (lowBytes v n) = v.toNat % 2 ^ (8 * n) := by
  induction n generalizing v with
  | zero => simp [lowBytes, littleEndian, Nat.mod_one]
  | succ n ih =>
    rw [lowBytes_succ, littleEndian, ih, Nat.mul_succ, Nat.add_comm (8 * n), Nat.pow_add, Nat.mod_mul]
    simp [Nat.shiftRight_eq_div_pow]

/-- A read of bytes that are a value's answers its low bits (R62). -/
theorem readTarget_of_bytes {s : State} {width : Width} {w : Window} {k : Nat} {v : Word}
    (h : ∀ j < width.bytes, s.windowByte w (k + j) = v.extractLsb' (8 * j) 8) :
    s.readTarget width (.win w k) = BitVec.ofNat 32 (v.toNat % 2 ^ (8 * width.bytes)) := by
  have bytes : (List.range width.bytes).map (fun j => s.windowByte w (k + j)) = lowBytes v width.bytes :=
    List.map_congr_left fun j hj => h j (List.mem_range.mp hj)
  rw [State.readTarget, bytes, littleEndian_lowBytes]

/-- A read while BUSY = 0 answers the current value (R24). -/
theorem hostAccess_read_idle {width : Width} {off : Offset} {tg : Target} {s : State}
    (ht : targetOf width off.toNat = .ok tg) (hb : s.busy = false) :
    hostAccess (.read width off) s = .next (s.respond (.value (s.readTarget width tg))) := by
  rw [hostAccess_read ht, hostRead_of_not_inFlight width (by simp [State.inFlight, hb])]

theorem windowByte_writeRam_lowBytes (s : State) {w : Window} (hw : w ∈ [Window.pa, .pb, .inbuf]) (k : Nat) (v : Word)
    {n j : Nat} (hj : j < n) :
    (s.writeRam (w.base + k) (lowBytes v n)).windowByte w (k + j) = v.extractLsb' (8 * j) 8 := by
  rw [windowByte_eq_ramByte _ _ hw, ← Nat.add_assoc, ramByte_writeRam_inside s (by simpa using hj)]
  simp [lowBytes]

/-- Settles O52: the bytes stored are the value's, and a read puts them together again. -/
theorem windowWriteThenRead : Obligations.WindowWriteThenRead := by
  intro s width w k v hb hw hal hin
  have target := targetOf_window hal hin
  have write := hostAccess_write (s := s) v target (by simp [hb])
  rw [writeTarget_window s width v k hw] at write
  have stored : ∀ j < width.bytes, ((s.writeRam (w.base + k) (lowBytes v width.bytes)).respond .wrote).windowByte w
      (k + j) = v.extractLsb' (8 * j) 8 := fun j hj => windowByte_writeRam_lowBytes s hw k v hj
  refine ⟨_, write, stored, fun off hoff => ?_, readReg_writeRam s (w.base + k) (lowBytes v width.bytes), ?_⟩
  · exact byteAt_writeRam_outside s (by simpa using hoff)
  · rw [hostAccess_read_idle target, readTarget_of_bytes stored]
    exact hb

end Sys2Proof.Machine

/-! ## Decoding and encoding (spec/30_encoding.md R90-R99) -/

namespace Sys2Proof

/-! ### The opcode map -/

/-- No opcode has two rows (R93). -/
theorem opMap_opc_nodup : (opMap.map OpRow.opc).Nodup := by decide

/-- A row is the one the decoder finds for its opcode. -/
theorem find_opMap {row : OpRow} {opc : Byte} (hmem : row ∈ opMap) (hopc : row.opc = opc) :
    opMap.find? (fun r => r.opc == opc) = some row := by
  cases hfind : opMap.find? (fun r => r.opc == opc) with
  | none => simpa [hopc] using List.find?_eq_none.mp hfind row hmem
  | some found =>
    have hfound : found.opc = opc := by simpa using List.find?_some hfind
    rw [List.inj_on_of_nodup_map opMap_opc_nodup (List.mem_of_find?_eq_some hfind) hmem (hfound.trans hopc.symm)]

/-- The opcodes of the map are those R95 does not reserve. -/
theorem opMap_opc_ranges : ∀ row ∈ opMap, row.opc.toNat ≤ 0x05 ∨ (0x10 ≤ row.opc.toNat ∧ row.opc.toNat ≤ 0x13) ∨
    (0x20 ≤ row.opc.toNat ∧ row.opc.toNat ≤ 0x22) ∨ (0x30 ≤ row.opc.toNat ∧ row.opc.toNat ≤ 0x3D) ∨
    (0x40 ≤ row.opc.toNat ∧ row.opc.toNat ≤ 0x42) := by decide

/-- A row's command has the row's opcode and the fields in its word: `encode` agrees with each row of the map, once
the format's must-be-zero fields are 0 (R93). -/
theorem encode_command {row : OpRow} (hmem : row ∈ opMap) {f2 f1 f0 : Byte}
    (hzero : row.fmt.zeroFieldsOk f2 f1 f0 = true) : encode (row.command f2 f1 f0) = word row.opc f2 f1 f0 := by
  revert row
  simp +contextual [opMap, opMapArith, opMapBuilder, Format.zeroFieldsOk, encode]

/-- A nonzero field that the format requires to be zero (R92). -/
theorem Format.zeroFieldsOk_eq_false {fmt : Format} {f2 f1 f0 : Byte}
    (h : ((fmt = .N ∨ fmt = .A ∨ fmt = .B) ∧ f2 ≠ 0) ∨ ((fmt = .N ∨ fmt = .A) ∧ f1 ≠ 0) ∨ (fmt = .N ∧ f0 ≠ 0)) :
    fmt.zeroFieldsOk f2 f1 f0 = false := by
  rcases h with ⟨rfl | rfl | rfl, hf⟩ | ⟨rfl | rfl, hf⟩ | ⟨rfl, hf⟩ <;>
    simp only [Format.zeroFieldsOk, beq_eq_false_iff_ne.mpr hf, Bool.and_false, Bool.false_and]

/-! ### The decoder -/

/-- An opcode outside the map (R94 step 1). -/
theorem decode_of_no_row {w : Word} (h : ∀ row ∈ opMap, row.opc ≠ opField w) :
    decode w = .error .illegalCommand := by
  have hfind : opMap.find? (fun r => r.opc == opField w) = none :=
    List.find?_eq_none.mpr fun row hmem => by simpa using h row hmem
  rw [decode, hfind]

/-- An opcode in the map: the row's format decides (R94 step 2). -/
theorem decode_of_row {w : Word} {row : OpRow} (hmem : row ∈ opMap) (hopc : row.opc = opField w) :
    decode w = if row.fmt.zeroFieldsOk (f2Field w) (f1Field w) (f0Field w) then
      .ok (row.command (f2Field w) (f1Field w) (f0Field w)) else .error .illegalCommand := by
  rw [decode, find_opMap hmem hopc]

theorem decode_of_nonzero_field {w : Word} {row : OpRow} (hmem : row ∈ opMap) (hopc : row.opc = opField w)
    (hzero : row.fmt.zeroFieldsOk (f2Field w) (f1Field w) (f0Field w) = false) :
    decode w = .error .illegalCommand := by
  simp [decode_of_row hmem hopc, hzero]

/-- A word that decodes is its row's command, and its must-be-zero fields are zero. -/
theorem decode_ok {w : Word} {i : Instr} (h : decode w = .ok i) :
    ∃ row ∈ opMap, row.opc = opField w ∧ row.fmt.zeroFieldsOk (f2Field w) (f1Field w) (f0Field w) = true ∧
      row.command (f2Field w) (f1Field w) (f0Field w) = i := by
  by_cases hrow : ∃ row ∈ opMap, row.opc = opField w
  · obtain ⟨row, hmem, hopc⟩ := hrow
    rw [decode_of_row hmem hopc] at h
    split at h
    · exact ⟨row, hmem, hopc, ‹_›, by simpa using h⟩
    · simp at h
  · rw [decode_of_no_row (by simpa using hrow)] at h
    simp at h

/-- The word of an opcode and fields decodes to the command of the row found for that opcode. -/
theorem decode_word {opc f2 f1 f0 : Byte} {row : OpRow} {i : Instr}
    (hfind : opMap.find? (fun r => r.opc == opc) = some row) (hzero : row.fmt.zeroFieldsOk f2 f1 f0 = true)
    (hi : row.command f2 f1 f0 = i) : decode (word opc f2 f1 f0) = .ok i := by
  simp [decode, hfind, hzero, hi]

theorem decode_encode (i : Instr) : decode (encode i) = .ok i := by
  -- the row of each command's opcode is found by evaluating the lookup
  cases i <;> exact decode_word rfl rfl rfl

theorem encode_of_decode {w : Word} {i : Instr} (h : decode w = .ok i) : encode i = w := by
  obtain ⟨row, hmem, hopc, hzero, rfl⟩ := decode_ok h
  rw [encode_command hmem hzero, hopc, word_fields]

/-- Settles O7: the row found for a word's opcode encodes its command as that word, and the row found for a
command's opcode decodes to that command. -/
theorem decodeIsTheInverseOfEncode : Obligations.DecodeIsTheInverseOfEncode :=
  fun _ i => ⟨fun h => (encode_of_decode h).symm, fun h => h ▸ decode_encode i⟩

/-- Settles O8: no row has a reserved opcode, and a row's format decides which fields must be zero. -/
theorem reservedEncodingsAreIllegal : Obligations.ReservedEncodingsAreIllegal := by
  refine ⟨fun w hreserved => ?_, fun w row hmem hopc hfield => ?_, fun w => decodeIsTheInverseOfEncode w .nop⟩
  · refine decode_of_no_row fun row hmem hopc => ?_
    have hrange := opMap_opc_ranges row hmem
    rw [hopc] at hrange
    omega
  · exact decode_of_nonzero_field hmem hopc (Format.zeroFieldsOk_eq_false hfield)

/-- Settles O9: six of the words are encodings; of the other two, one has a nonzero must-be-zero field and one an
operand outside its range. -/
theorem exampleWordsDecode : Obligations.ExampleWordsDecode :=
  ⟨decode_encode (.gfMul 0x02 0x80), decode_encode (.qrConfig 8 0 0), decode_encode (.qrConfig 3 2 7),
    decode_encode (.qrLayout 1 5), decode_encode (.tblQuery 3 5), decode_encode (.crcByte 0x41), by decide, by decide⟩

end Sys2Proof

namespace Sys2Proof.Machine

/-! ### Words that do not decode to a legal command -/

theorem engineStep_of_decode_error {s : State} {c : ErrorCode} (h : decode s.latch = .error c) :
    engineStep s = .next (s.fail c) := by simp [engineStep, h]

theorem engineStep_of_decode_ok {s : State} {i : Instr} (h : decode s.latch = .ok i) :
    engineStep s = exec i s := by simp [engineStep, h]

theorem ifLegal_of_eq_false {legal : Bool} (r : Except ErrorCode State) (h : legal = false) :
    ifLegal legal r = .error .rangeError := by rw [h, ifLegal_false]

/-- Every command checks its operand fields before anything else (R94 step 3). -/
theorem outcome_of_not_wellFormed {i : Instr} (s : State) (h : i.wellFormed = false) :
    outcome i s = .error .rangeError := by
  cases i with
  | rsEcc t =>
    have ht : t.toNat = 0 := by simpa [Instr.wellFormed] using h
    exact ifLegal_of_eq_false _ (by simp [fieldIn, ht])
  | bbPut | bbPutBit | qrConfig | qrLayout | qrFmtBch | qrVerBch | tblQuery | tblAlign =>
    exact ifLegal_of_eq_false _ (by simpa [Instr.wellFormed, fieldIn] using h)
  | _ => simp [Instr.wellFormed] at h

/-- Settles O10: the decoder refuses in the order of R94, and a decoded command's outcome refuses its operands. -/
theorem decodeFailuresOfTheEngine : Obligations.DecodeFailuresOfTheEngine := by
  refine fun s => ⟨fun hrow => ?_, fun row hmem hopc hzero => ?_, fun i hi hwf => ?_⟩
  · exact engineStep_of_decode_error (decode_of_no_row hrow)
  · exact engineStep_of_decode_error (decode_of_nonzero_field hmem hopc hzero)
  · rw [engineStep_of_decode_ok hi, exec_eq_complete, outcome_of_not_wellFormed s hwf, complete_error]

end Sys2Proof.Machine

/-! ## The command protocol (spec/40_control.md R120-R128) -/

namespace Sys2Proof.Machine

/-! ### Completion -/

theorem one_le_errorNumber (c : ErrorCode) : 1 ≤ (errorNumber c).toNat :=
  Nat.one_le_iff_ne_zero.mpr fun h => errorNumber_ne_zero c (BitVec.eq_of_toNat_eq h)

/-- Settles O3: `exec` completes the command's outcome, and the outcome of NOP is the state itself. -/
theorem everyCommandCompletes : Obligations.EveryCommandCompletes := by
  refine ⟨fun i s => ?_, fun s => rfl⟩
  rw [exec_eq_complete]
  cases outcome i s with
  | ok u => exact ⟨u.succeed, rfl, rfl, rfl, fun _ => ⟨rfl, rfl⟩, fun h => absurd h Bool.false_ne_true⟩
  | error c =>
    exact ⟨s.fail c, rfl, rfl, rfl, fun h => absurd h.symm Bool.false_ne_true,
      fun _ => ⟨one_le_errorNumber c, errorNumber_le c, rfl⟩⟩

/-- Settles O4: a completion with ERR set is the error completion, made from the state the command began in. -/
theorem failedCommandLeavesNoTrace : Obligations.FailedCommandLeavesNoTrace := by
  intro i s t hexec herr
  obtain ⟨u, -, rfl⟩ | ⟨c, -, rfl⟩ := exec_next hexec
  · exact absurd herr Bool.false_ne_true
  · rfl

/-! ### Turns -/

theorem step_of_no_turns {s : State} (h : s.turns = []) : step s = engineTurn s := by simp [step, h]

theorem step_of_engine_turn {s : State} {ts : List Turn} (h : s.turns = .engine :: ts) :
    step s = engineTurn (s.setTurns ts) := by simp [step, h]

theorem step_of_host_turn {s : State} {a : HostAccess} {ts : List Turn} (h : s.turns = .host a :: ts) :
    step s = hostAccess a (s.setTurns ts) := by simp [step, h]

theorem engineTurn_of_busy {s : State} (h : s.busy = true) : engineTurn s = engineStep s := if_pos h

theorem engineTurn_of_idle {s : State} (h : s.busy = false) : engineTurn s = .next s :=
  if_neg (by rw [h]; exact Bool.false_ne_true)

/-- The step after a word's acceptance is the engine's turn on the accepted word (log entry 3). -/
theorem step_withFetchWord (s : State) (w : Word) :
    step (s.withFetchWord 32 w.toNat) = engineTurn (s.accept w) := by
  have accepted : s.withFetchWord 32 w.toNat = (s.accept w).setTurns (.engine :: s.turns) := by
    simp [State.withFetchWord, Nat.mod_eq_of_lt w.isLt]
  rw [accepted, step_of_engine_turn rfl]
  rfl

/-- Settles O1: the next turn is the engine's, BUSY says whether it takes a step, and decoding LATCH which. -/
theorem stepRunsDecodedCommand : Obligations.StepRunsDecodedCommand := by
  refine ⟨fun s i hb hts hi => ?_, fun s i ts hb hts hi => ?_, fun s c ts hb hts hc => ?_, fun s ts hb hts => ?_,
    fun s hb hts => ?_, fun s i hi => ?_⟩
  · rw [step_of_no_turns hts, engineTurn_of_busy hb, engineStep_of_decode_ok hi]
  · rw [step_of_engine_turn hts, engineTurn_of_busy (s := s.setTurns ts) hb,
      engineStep_of_decode_ok (s := s.setTurns ts) hi]
  · rw [step_of_engine_turn hts, engineTurn_of_busy (s := s.setTurns ts) hb,
      engineStep_of_decode_error (s := s.setTurns ts) hc]
  · rw [step_of_engine_turn hts, engineTurn_of_idle (s := s.setTurns ts) hb]
  · rw [step_of_no_turns hts, engineTurn_of_idle hb]
  · rw [step_withFetchWord, engineTurn_of_busy (accept_busy s _),
      engineStep_of_decode_ok (s := s.accept (encode i)) hi]

/-! ### Writes of CMD -/

theorem writeCmd_of_idle {s : State} (w : Word) (h : s.busy = false) : s.writeCmd w = s.accept w :=
  if_neg (by rw [h]; exact Bool.false_ne_true)

theorem writeCmd_of_busy {s : State} (w : Word) (h : s.busy = true) : s.writeCmd w = s.overrun := if_pos h

/-- A host's write of CMD is never a HostHazard. -/
theorem step_of_cmd_write {s : State} {w : Word} {ts : List Turn}
    (h : s.turns = .host (.write .full 0x010 w) :: ts) :
    step s = .next (((s.setTurns ts).writeCmd w).respond .wrote) := by
  rw [step_of_host_turn h]
  exact hostAccess_write_reg (r := .cmd) w rfl (by simp [Target.isOperand])

/-- Settles O2: a write of CMD is the acceptance while idle, and the overrun while busy. -/
theorem commandWriteAcceptedOrDropped : Obligations.CommandWriteAcceptedOrDropped := by
  refine ⟨fun s ts w hb hts => ?_, fun s ts w hb hts => ?_⟩
  · rw [step_of_cmd_write hts, writeCmd_of_idle (s := s.setTurns ts) w hb]
    rfl
  · rw [step_of_cmd_write hts, writeCmd_of_busy (s := s.setTurns ts) w hb]
    rfl

end Sys2Proof.Machine

/-! ## Arithmetic in GF(256) (spec/41_gf_arith.md) -/

namespace Sys2Proof.Machine

/-! ### Bytes as sums of bits -/

/-- One more low bit of a byte, as a term of an exclusive or. -/
theorem setWidth_succ_eq_xor (a : Byte) (n : Nat) : (a.setWidth (n + 1)).setWidth 8 =
    (a.setWidth n).setWidth 8 ^^^ (if a.getLsbD n then BitVec.twoPow 8 n else 0) := by
  ext i hi
  obtain hlt | rfl | hgt := Nat.lt_trichotomy i n
  · cases a.getLsbD n <;> simp [hi, hlt, hlt.ne, Nat.lt_succ_of_lt hlt]
  · cases h : a.getLsbD i <;> simp_all
  · cases a.getLsbD n <;> simp [hi, hgt.ne', Nat.not_lt.mpr hgt.le, Nat.not_lt.mpr (Nat.succ_le_of_lt hgt)]

/-- What holds of 0 and of each single bit, and of an exclusive or when it holds of both sides, holds of every
byte. -/
theorem byte_xor_induction {p : Byte → Prop} (zero : p 0) (bit : ∀ i < 8, p (BitVec.twoPow 8 i))
    (xor : ∀ a b, p a → p b → p (a ^^^ b)) (a : Byte) : p a := by
  have low : ∀ n ≤ 8, p ((a.setWidth n).setWidth 8) := by
    intro n hn
    induction n with
    | zero => simpa [BitVec.eq_nil (a.setWidth 0)] using zero
    | succ n ih =>
      rw [setWidth_succ_eq_xor]
      refine xor _ _ (ih (by omega)) ?_
      split
      · exact bit n hn
      · exact zero
  simpa using low 8 (Nat.le_refl 8)

/-- Adding a value where a bit is set is additive in the bit and in the value added to. -/
theorem addIf_xor {w : Nat} (b c : Bool) (p q x : BitVec w) :
    (if b ^^ c then p ^^^ q ^^^ x else p ^^^ q) = (if b then p ^^^ x else p) ^^^ (if c then q ^^^ x else q) := by
  cases b <;> cases c
  · rfl
  · simp [BitVec.xor_assoc]
  · simp [BitVec.xor_assoc, BitVec.xor_comm q]
  · have cancel : p ^^^ x ^^^ (q ^^^ x) = p ^^^ q ^^^ (x ^^^ x) := by ac_rfl
    simp [cancel]

/-- A fold whose steps are additive is additive. -/
theorem foldl_xor {w : Nat} {f g h : BitVec w → Nat → BitVec w}
    (step : ∀ p q k, h (p ^^^ q) k = f p k ^^^ g q k) (ks : List Nat) (p q : BitVec w) :
    ks.foldl h (p ^^^ q) = ks.foldl f p ^^^ ks.foldl g q :=
  List.foldl_hom₂ ks (· ^^^ ·) f g h p q fun p q k => (step p q k).symm

/-! ### The carry-less product mod 0x11D (R151(e)) -/

/-- The product of R151(e). -/
def fieldProduct (a b : Byte) : Byte := reduceMod11D (carrylessProduct a b)

theorem carrylessProduct_xor_left (a b c : Byte) :
    carrylessProduct (a ^^^ b) c = carrylessProduct a c ^^^ carrylessProduct b c := by
  refine foldl_xor (fun p q k => ?_) (List.range 8) 0 0
  cases c.getLsbD k
  · rfl
  · simp only [BitVec.setWidth_xor, BitVec.shiftLeft_xor_distrib, if_true]
    ac_rfl

theorem carrylessProduct_xor_right (a b c : Byte) :
    carrylessProduct a (b ^^^ c) = carrylessProduct a b ^^^ carrylessProduct a c := by
  refine foldl_xor (fun p q k => ?_) (List.range 8) 0 0
  simpa only [BitVec.getLsbD_xor] using addIf_xor (b.getLsbD k) (c.getLsbD k) p q (a.setWidth 16 <<< k)

theorem reduceMod11D_xor (x y : BitVec 16) : reduceMod11D (x ^^^ y) = reduceMod11D x ^^^ reduceMod11D y := by
  simp only [reduceMod11D, ← BitVec.setWidth_xor]
  congr 1
  refine foldl_xor (fun p q k => ?_) (List.range 7) x y
  simpa only [BitVec.getLsbD_xor] using
    addIf_xor (p.getLsbD (14 - k)) (q.getLsbD (14 - k)) p q (0x11D#16 <<< (6 - k))

theorem fieldProduct_xor_left (a b c : Byte) :
    fieldProduct (a ^^^ b) c = fieldProduct a c ^^^ fieldProduct b c := by
  simp only [fieldProduct, carrylessProduct_xor_left, reduceMod11D_xor]

theorem fieldProduct_xor_right (a b c : Byte) :
    fieldProduct a (b ^^^ c) = fieldProduct a b ^^^ fieldProduct a c := by
  simp only [fieldProduct, carrylessProduct_xor_right, reduceMod11D_xor]

@[simp] theorem fieldProduct_zero_left (b : Byte) : fieldProduct 0#8 b = 0#8 := by
  simpa using fieldProduct_xor_left 0 0 b

@[simp] theorem fieldProduct_zero_right (a : Byte) : fieldProduct a 0#8 = 0#8 := by
  simpa using fieldProduct_xor_right a 0 0

theorem fieldProduct_one_left (b : Byte) : fieldProduct 1 b = b := by
  induction b using byte_xor_induction with
  | zero => rfl
  | bit i hi => revert i; decide
  | xor a b ha hb => rw [fieldProduct_xor_right, ha, hb]

/-! ### Doubling (R140) -/

@[simp] theorem xtime_zero : xtime 0#8 = 0#8 := rfl

theorem xtime_xor (a b : Byte) : xtime (a ^^^ b) = xtime a ^^^ xtime b := by
  simpa only [xtime, BitVec.getLsbD_xor, BitVec.shiftLeft_xor_distrib] using
    addIf_xor (a.getLsbD 7) (b.getLsbD 7) (a <<< 1) (b <<< 1) 0x1D

/-- The product with a doubled factor is the doubled product: both sides are additive in each factor. -/
theorem fieldProduct_xtime_left (a b : Byte) : fieldProduct (xtime a) b = xtime (fieldProduct a b) := by
  induction a using byte_xor_induction with
  | zero => simp
  | xor a a' ha ha' => rw [xtime_xor, fieldProduct_xor_left, ha, ha', fieldProduct_xor_left, xtime_xor]
  | bit i hi =>
    induction b using byte_xor_induction with
    | zero => simp
    | xor b b' hb hb' => rw [fieldProduct_xor_right, hb, hb', fieldProduct_xor_right, xtime_xor]
    | bit j hj =>
      have bits : ∀ i < 8, ∀ j < 8, fieldProduct (xtime (BitVec.twoPow 8 i)) (BitVec.twoPow 8 j) =
          xtime (fieldProduct (BitVec.twoPow 8 i) (BitVec.twoPow 8 j)) := by decide +kernel
      exact bits i hi j hj

/-! ### Powers of the generator -/

theorem gfExpTable_succ : ∀ k < 254, gfExpTable (k + 1) = xtime (gfExpTable k) := by decide +kernel

/-- Doubling is the next power, the exponents being mod 255. -/
theorem xtime_gfExpTable (k : Nat) : xtime (gfExpTable (k % 255)) = gfExpTable ((k + 1) % 255) := by
  obtain h | h : k % 255 = 254 ∨ k % 255 < 254 := by omega
  · rw [h, show (k + 1) % 255 = 0 by omega]
    decide
  · rw [← gfExpTable_succ _ h, show (k + 1) % 255 = k % 255 + 1 by omega]

theorem fieldProduct_gfExpTable (i j : Nat) :
    fieldProduct (gfExpTable (i % 255)) (gfExpTable (j % 255)) = gfExpTable ((i + j) % 255) := by
  induction i with
  | zero =>
    rw [Nat.zero_mod, Nat.zero_add]
    exact fieldProduct_one_left _
  | succ i ih => rw [← xtime_gfExpTable, fieldProduct_xtime_left, ih, xtime_gfExpTable, Nat.add_right_comm]

/-- A nonzero byte is a power of the generator (R141). -/
theorem exists_eq_gfExpTable {a : Byte} (h : a ≠ 0) : ∃ i, a = gfExpTable (i % 255) := by
  obtain ⟨hlt, hexp⟩ := gfExpTable_gfLogTable h
  exact ⟨gfLogTable a, by rw [Nat.mod_eq_of_lt hlt, hexp]⟩

/-! ### Multiplication (R143) -/

@[simp] theorem gfMul_zero_left (b : Byte) : gfMul 0#8 b = 0#8 := by simp [gfMul]

@[simp] theorem gfMul_zero_right (a : Byte) : gfMul a 0#8 = 0#8 := by simp [gfMul]

theorem gfMul_comm (a b : Byte) : gfMul a b = gfMul b a := by
  simp only [gfMul, or_comm, Nat.add_comm]

/-- Exponents add mod 255. -/
theorem gfMul_gfExpTable (i j : Nat) :
    gfMul (gfExpTable (i % 255)) (gfExpTable (j % 255)) = gfExpTable ((i + j) % 255) := by
  obtain ⟨hi, hlogi⟩ := gfLogTable_gfExpTable (Nat.mod_lt i (by decide : 255 > 0))
  obtain ⟨hj, hlogj⟩ := gfLogTable_gfExpTable (Nat.mod_lt j (by decide : 255 > 0))
  simp only [gfMul, hi, hj, or_self, if_false, hlogi, hlogj, ← Nat.add_mod]

theorem gfMul_eq_fieldProduct (a b : Byte) : gfMul a b = fieldProduct a b := by
  by_cases ha : a = 0
  · simp [ha]
  by_cases hb : b = 0
  · simp [hb]
  obtain ⟨i, rfl⟩ := exists_eq_gfExpTable ha
  obtain ⟨j, rfl⟩ := exists_eq_gfExpTable hb
  rw [gfMul_gfExpTable, fieldProduct_gfExpTable]

theorem gfMul_assoc (a b c : Byte) : gfMul (gfMul a b) c = gfMul a (gfMul b c) := by
  by_cases ha : a = 0
  · simp [ha]
  by_cases hb : b = 0
  · simp [hb]
  by_cases hc : c = 0
  · simp [hc]
  obtain ⟨i, rfl⟩ := exists_eq_gfExpTable ha
  obtain ⟨j, rfl⟩ := exists_eq_gfExpTable hb
  obtain ⟨k, rfl⟩ := exists_eq_gfExpTable hc
  simp only [gfMul_gfExpTable, Nat.add_assoc]

theorem gfMul_xor_right (a b c : Byte) : gfMul a (b ^^^ c) = gfMul a b ^^^ gfMul a c := by
  simp only [gfMul_eq_fieldProduct, fieldProduct_xor_right]

theorem gfMul_one_right (a : Byte) : gfMul a 1 = a := by
  rw [gfMul_comm, gfMul_eq_fieldProduct, fieldProduct_one_left]

/-! ### Division and inverse (R144, R145) -/

@[simp] theorem gfDiv_zero_right (a : Byte) : gfDiv a 0 = .error .invalidArgument := rfl

theorem gfDiv_of_ne_zero (a : Byte) {b : Byte} (h : b ≠ 0) : gfDiv a b = .ok (gfQuot a b) := if_neg h

@[simp] theorem gfInv_zero : gfInv 0 = .error .invalidArgument := rfl

/-- The inverse is the quotient of 1: the entry EXP[255] = EXP[0] serves the logarithm 0 (R145). -/
theorem gfInv_of_ne_zero {b : Byte} (h : b ≠ 0) : gfInv b = .ok (gfQuot 1 b) := by
  have wrap : gfExpTable (255 - gfLogTable b) = gfExpTable ((255 - gfLogTable b) % 255) := by
    obtain h0 | hpos := Nat.eq_zero_or_pos (gfLogTable b)
    · rw [h0]
      rfl
    · rw [Nat.mod_eq_of_lt (by omega)]
  calc gfInv b = .ok (gfExpTable (255 - gfLogTable b)) := if_neg h
    _ = .ok (gfExpTable ((255 - gfLogTable b) % 255)) := by rw [wrap]
    _ = .ok (gfQuot 1 b) := rfl

/-! ### The commands (R146-R150) -/

@[simp] theorem resByte_of_ok (s : State) (b : Byte) : resByte s (.ok b) = .ok (s.setRes0 (b.setWidth 32)) := rfl

@[simp] theorem resByte_of_error (s : State) (c : ErrorCode) : resByte s (.error c) = .error c := rfl

/-- Settles O14: the recurrence and the inverses are facts of the two tables, and offset 0x01100 is LOG's index 0. -/
theorem tablesFollowTheRecurrence : Obligations.TablesFollowTheRecurrence := by
  refine ⟨rfl, gfExpTable_succ, rfl, fun a ha => ?_, fun s => rfl⟩
  obtain ⟨hlt, hexp⟩ := gfExpTable_gfLogTable ha
  refine ⟨Nat.le_of_lt_succ hlt, hexp, fun k hk h => ?_⟩
  rw [← h, (gfLogTable_gfExpTable (Nat.lt_succ_of_le hk)).2]

/-- Settles O15: on nonzero bytes multiplication adds exponents mod 255, and it is the carry-less product mod 0x11D,
which is additive. -/
theorem fieldLaws : Obligations.FieldLaws := by
  refine ⟨gfMul_comm, gfMul_assoc, gfMul_xor_right, fun a => ⟨gfMul_zero_right a, gfMul_one_right a⟩, fun a b hb => ?_⟩
  exact ⟨gfQuot 1 b, gfInv_of_ne_zero hb, by rw [gfMul_gfQuot hb, gfMul_one_right]⟩

/-- Settles O11: doubling a factor doubles the carry-less product mod 0x11D as it does the entries of EXP. -/
theorem gfMulIsTheFieldProduct : Obligations.GfMulIsTheFieldProduct := by
  intro a b s
  rw [exec_eq_complete, outcome, gfMul_eq_fieldProduct, resByte_of_ok, complete_ok, fieldProduct]

/-- Settles O12: the quotient times the divisor is the dividend, and the inverse is the quotient of 1. -/
theorem gfDivAndInvUndoMultiplication : Obligations.GfDivAndInvUndoMultiplication := by
  refine ⟨fun a b s hb => ⟨gfQuot a b, ?_, ?_⟩, fun a s => rfl, fun b s hb => ⟨gfQuot 1 b, gfMul_gfQuot hb 1, ?_⟩,
    fun s => rfl⟩
  · rw [gfMul_comm, gfMul_gfQuot hb]
  · rw [exec_eq_complete, outcome, gfDiv_of_ne_zero a hb, resByte_of_ok, complete_ok]
  · rw [exec_eq_complete, outcome, gfInv_of_ne_zero hb, resByte_of_ok, complete_ok]

/-- Settles O13: GF_LOG and GF_EXP read tables that are inverse to each other. -/
theorem gfLogAndExpAreInverse : Obligations.GfLogAndExpAreInverse := by
  refine ⟨fun a s ha => ?_, fun s => rfl, fun e s => ?_⟩
  · obtain ⟨hlt, hexp⟩ := gfExpTable_gfLogTable ha
    refine ⟨gfLogTable a, Nat.le_of_lt_succ hlt, hexp, ?_⟩
    rw [exec_eq_complete, outcome, if_neg ha, resByte_of_ok, complete_ok,
      BitVec.setWidth_ofNat_of_le_of_lt (by decide) (by omega)]
  · obtain ⟨hne, hlog⟩ := gfLogTable_gfExpTable (Nat.mod_lt e.toNat (by decide : 255 > 0))
    exact ⟨gfExpTable (e.toNat % 255), hne, hlog, rfl, rfl⟩

end Sys2Proof.Machine

/-! ## Polynomials over GF(256) (spec/42_poly_rs.md R160-R171) -/

namespace Sys2Proof.Machine

open scoped Polynomial

/-! ### Bytes as elements of a field

GF(256) is taken inside the algebraic closure of GF(2): the byte with the bits b_i is the sum of the powers α^i over
its 1 bits, where α is a root of the polynomial 0x11D. A byte polynomial is then one of Mathlib's polynomials. -/

/-- The field the bytes are embedded in. -/
abbrev ByteField : Type := AlgebraicClosure (ZMod 2)

/-- The polynomial 0x11D of R140 has a root. -/
theorem exists_generator : ∃ x : ByteField, x ^ 8 = x ^ 4 + x ^ 3 + x ^ 2 + 1 := by
  have degree : (Polynomial.X ^ 8 + Polynomial.X ^ 4 + Polynomial.X ^ 3 + Polynomial.X ^ 2 + 1 : ByteField[X]).degree =
      8 := by compute_degree!
  obtain ⟨x, hx⟩ := IsAlgClosed.exists_root _ (by rw [degree]; decide)
  refine ⟨x, ?_⟩
  simp only [Polynomial.IsRoot, Polynomial.eval_add, Polynomial.eval_pow, Polynomial.eval_X, Polynomial.eval_one,
    add_assoc] at hx
  rw [← ZModModule.neg_eq_self (x ^ 8), neg_eq_of_add_eq_zero_right hx, add_assoc, add_assoc]

/-- α, the field element of the byte EXP[1] = 2 (R140). -/
noncomputable def generator : ByteField := exists_generator.choose

theorem generator_pow_eight : generator ^ 8 = generator ^ 4 + generator ^ 3 + generator ^ 2 + 1 :=
  exists_generator.choose_spec

/-- The field element of a byte. -/
noncomputable def embed (a : Byte) : ByteField := ∑ i ∈ Finset.range 8, if a.getLsbD i then generator ^ i else 0

@[simp] theorem embed_zero : embed 0#8 = 0 := by simp [embed]

theorem embed_xor (a b : Byte) : embed (a ^^^ b) = embed a + embed b := by
  rw [embed, embed, embed, ← Finset.sum_add_distrib]
  refine Finset.sum_congr rfl fun i _ => ?_
  cases ha : a.getLsbD i <;> cases hb : b.getLsbD i <;> simp [ha, hb, ZModModule.add_self]

theorem embed_twoPow {i : Nat} (h : i < 8) : embed (BitVec.twoPow 8 i) = generator ^ i := by
  simp only [embed, BitVec.getLsbD_twoPow, h, decide_true, Bool.true_and, decide_eq_true_eq]
  simp [h]

/-- Doubling is multiplication by α (R140). -/
theorem embed_xtime (a : Byte) : embed (xtime a) = generator * embed a := by
  induction a using byte_xor_induction with
  | zero => simp
  | xor a b ha hb => rw [xtime_xor, embed_xor, embed_xor, ha, hb, mul_add]
  | bit i hi =>
    rw [embed_twoPow hi, ← pow_succ']
    obtain h | rfl : i < 7 ∨ i = 7 := by omega
    · have shift : ∀ i < 7, xtime (BitVec.twoPow 8 i) = BitVec.twoPow 8 (i + 1) := by decide
      rw [shift i h, embed_twoPow (by omega)]
    · have reduce : xtime (BitVec.twoPow 8 7) =
          BitVec.twoPow 8 4 ^^^ BitVec.twoPow 8 3 ^^^ BitVec.twoPow 8 2 ^^^ BitVec.twoPow 8 0 := by decide
      rw [reduce, embed_xor, embed_xor, embed_xor, embed_twoPow, embed_twoPow, embed_twoPow, embed_twoPow,
        generator_pow_eight, pow_zero] <;> decide

@[simp] theorem embed_one : embed 1#8 = 1 :=
  (embed_twoPow (i := 0) (by decide)).trans (pow_zero generator)

theorem embed_gfExpTable (k : Nat) : embed (gfExpTable (k % 255)) = generator ^ k := by
  induction k with
  | zero => exact embed_one.trans (pow_zero generator).symm
  | succ k ih => rw [← xtime_gfExpTable, embed_xtime, ih, pow_succ']

theorem embed_gfMul (a b : Byte) : embed (gfMul a b) = embed a * embed b := by
  by_cases ha : a = 0
  · simp [ha]
  by_cases hb : b = 0
  · simp [hb]
  obtain ⟨i, rfl⟩ := exists_eq_gfExpTable ha
  obtain ⟨j, rfl⟩ := exists_eq_gfExpTable hb
  rw [gfMul_gfExpTable, embed_gfExpTable, embed_gfExpTable, embed_gfExpTable, pow_add]

theorem embed_ne_zero {a : Byte} (h : a ≠ 0) : embed a ≠ 0 := by
  have order : generator ^ 255 = 1 := (embed_gfExpTable 255).symm.trans embed_one
  obtain ⟨i, rfl⟩ := exists_eq_gfExpTable h
  rw [embed_gfExpTable]
  exact ((IsUnit.of_pow_eq_one order (by decide)).pow i).ne_zero

theorem embed_injective : Function.Injective embed := by
  intro a b h
  by_contra hne
  refine embed_ne_zero (a := a ^^^ b) (by simpa using hne) ?_
  rw [embed_xor, h, ZModModule.add_self]

theorem embed_eq_zero {a : Byte} : embed a = 0 ↔ a = 0 :=
  ⟨fun h => embed_injective (h.trans embed_zero.symm), fun h => h ▸ embed_zero⟩

theorem embed_xorSum (f : Nat → Byte) (n : Nat) :
    embed (xorSum ((List.range n).map f)) = ∑ i ∈ Finset.range n, embed (f i) := by
  induction n with
  | zero => simp [xorSum]
  | succ n ih =>
    rw [Finset.sum_range_succ, ← ih, ← embed_xor]
    simp [xorSum, List.range_succ]

/-! ### Byte polynomials as polynomials over the field (R160, R161) -/

/-- The polynomial a coefficient list denotes, highest degree first (R160). -/
noncomputable def denote : Poly → ByteField[X]
  | [] => 0
  | c :: p => Polynomial.C (embed c) * Polynomial.X ^ p.length + denote p

@[simp] theorem denote_nil : denote [] = 0 := rfl

theorem denote_cons (c : Byte) (p : Poly) :
    denote (c :: p) = Polynomial.C (embed c) * Polynomial.X ^ p.length + denote p := rfl

@[simp] theorem denote_zero_cons (p : Poly) : denote (0#8 :: p) = denote p := by simp [denote_cons]

@[simp] theorem denote_singleton (c : Byte) : denote [c] = Polynomial.C (embed c) := by simp [denote_cons]

theorem denote_append (p q : Poly) : denote (p ++ q) = denote p * Polynomial.X ^ q.length + denote q := by
  induction p with
  | nil => simp
  | cons c p ih =>
    simp only [List.cons_append, denote_cons, ih, List.length_append, pow_add]
    ring

@[simp] theorem denote_replicate_zero (n : Nat) : denote (List.replicate n 0#8) = 0 := by
  induction n with
  | zero => rfl
  | succ n ih => rw [List.replicate_succ, denote_zero_cons, ih]

theorem denote_map_gfMul (c : Byte) (p : Poly) : denote (p.map (gfMul c)) = Polynomial.C (embed c) * denote p := by
  induction p with
  | nil => simp
  | cons a p ih =>
    simp only [List.map_cons, denote_cons, List.length_map, embed_gfMul, Polynomial.C_mul, ih]
    ring

theorem denote_map_gfMul_right (c : Byte) (p : Poly) :
    denote (p.map fun a => gfMul a c) = Polynomial.C (embed c) * denote p := by
  rw [← denote_map_gfMul, funext fun a => gfMul_comm a c]

/-- The coefficients are those of `coeff`. -/
theorem coeff_denote (p : Poly) (k : Nat) : (denote p).coeff k = embed (coeff p k) := by
  induction p with
  | nil => simp [coeff]
  | cons c p ih =>
    rw [denote_cons, Polynomial.coeff_add, Polynomial.coeff_C_mul_X_pow, ih]
    simp only [coeff, List.reverse_cons]
    obtain hk | rfl | hk := Nat.lt_trichotomy k p.length
    · rw [if_neg hk.ne, zero_add, List.getD_append _ _ _ _ (by simpa using hk)]
    · simp
    · rw [if_neg hk.ne', zero_add, List.getD_eq_default _ _ (by simpa using hk.le),
        List.getD_eq_default _ _ (by simpa using hk)]

/-- The value at a point is the polynomial's. -/
theorem embed_evalAt (p : Poly) (x : Byte) : embed (evalAt p x) = (denote p).eval (embed x) := by
  have fold : ∀ (p : Poly) (acc : Byte), embed (p.foldl (fun acc c => gfMul acc x ^^^ c) acc) =
      embed acc * embed x ^ p.length + (denote p).eval (embed x) := by
    intro p
    induction p with
    | nil => simp
    | cons c p ih =>
      intro acc
      rw [List.foldl_cons, ih, embed_xor, embed_gfMul]
      simp only [denote_cons, List.length_cons, Polynomial.eval_add, Polynomial.eval_mul, Polynomial.eval_C,
        Polynomial.eval_pow, Polynomial.eval_X]
      ring
  simpa [evalAt] using fold p 0#8

theorem degree_denote_lt (p : Poly) : (denote p).degree < p.length := by
  refine (Polynomial.degree_lt_iff_coeff_zero _ _).mpr fun k hk => ?_
  rw [coeff_denote, coeff, List.getD_eq_default _ _ (by simpa using hk)]
  exact embed_zero

/-- Different lists of one length denote different polynomials. -/
theorem eq_of_denote_eq_of_length_eq {p q : Poly} (hlen : p.length = q.length) (h : denote p = denote q) : p = q := by
  refine List.reverse_injective (List.ext_getElem (by simpa using hlen) fun k hp hq => ?_)
  have hk : coeff p k = coeff q k := embed_injective (by rw [← coeff_denote, ← coeff_denote, h])
  rwa [coeff, coeff, List.getD_eq_getElem _ _ hp, List.getD_eq_getElem _ _ hq] at hk

/-! ### Normal forms (R161) -/

theorem polyNorm_cons_of_ne_zero {c : Byte} (hc : c ≠ 0) (p : Poly) : polyNorm (c :: p) = c :: p := by
  rw [polyNorm, List.dropWhile_cons_of_neg (by simpa using hc)]

@[simp] theorem denote_polyNorm (p : Poly) : denote (polyNorm p) = denote p := by
  induction p with
  | nil => exact denote_zero_cons []
  | cons c p ih =>
    by_cases hc : c = 0
    · rw [hc, polyNorm_zero_cons, ih]
      exact (denote_zero_cons p).symm
    · rw [polyNorm_cons_of_ne_zero hc]

/-- The first coefficient, where it is not 0, is the leading one. -/
theorem degree_leadingCoeff_denote_cons {c : Byte} (hc : c ≠ 0) (p : Poly) :
    (denote (c :: p)).natDegree = p.length ∧ (denote (c :: p)).leadingCoeff = embed c := by
  have lower : (denote p).degree < (Polynomial.C (embed c) * Polynomial.X ^ p.length).degree := by
    rw [Polynomial.degree_C_mul_X_pow _ (embed_ne_zero hc)]
    exact degree_denote_lt p
  rw [denote_cons, Polynomial.natDegree_add_eq_left_of_degree_lt lower, Polynomial.leadingCoeff_add_of_degree_lt' lower]
  exact ⟨Polynomial.natDegree_C_mul_X_pow _ _ (embed_ne_zero hc), Polynomial.leadingCoeff_C_mul_X_pow _ _⟩

/-- A normal form has one coefficient more than its degree; the zero polynomial has the one coefficient 0. -/
theorem length_polyNorm (p : Poly) : (polyNorm p).length = (denote p).natDegree + 1 := by
  rw [← denote_polyNorm]
  obtain h | ⟨c, q, hc, h, -⟩ := polyNorm_cases p
  · simp [h]
  · rw [h, (degree_leadingCoeff_denote_cons hc q).1, List.length_cons]

theorem embed_headD_polyNorm (p : Poly) : embed ((polyNorm p).headD 0) = (denote p).leadingCoeff := by
  rw [← denote_polyNorm]
  obtain h | ⟨c, q, hc, h, -⟩ := polyNorm_cases p
  · simp [h]
  · rw [h, (degree_leadingCoeff_denote_cons hc q).2, List.headD_cons]

/-- A list is a normal form exactly when its length is that of one. -/
theorem polyNorm_eq_self_iff {p : Poly} : polyNorm p = p ↔ p.length = (denote p).natDegree + 1 := by
  rw [← length_polyNorm]
  exact ⟨fun h => by rw [h], fun h => eq_of_denote_eq_of_length_eq h.symm (denote_polyNorm p)⟩

/-- A polynomial has one normal form. -/
theorem polyNorm_eq_polyNorm_iff {p q : Poly} : polyNorm p = polyNorm q ↔ denote p = denote q := by
  refine ⟨fun h => by rw [← denote_polyNorm, h, denote_polyNorm], fun h => ?_⟩
  exact eq_of_denote_eq_of_length_eq (by rw [length_polyNorm, length_polyNorm, h]) (by simpa using h)

@[simp] theorem polyNorm_polyNorm (p : Poly) : polyNorm (polyNorm p) = polyNorm p :=
  polyNorm_eq_polyNorm_iff.mpr (denote_polyNorm p)

theorem isZero_iff {p : Poly} : isZero p = true ↔ denote p = 0 := by
  rw [← denote_nil, ← polyNorm_eq_polyNorm_iff, isZero, beq_iff_eq]
  rfl

theorem isZero_eq_false_iff {p : Poly} : isZero p = false ↔ denote p ≠ 0 := by
  rw [ne_eq, ← isZero_iff, Bool.not_eq_true]

@[simp] theorem isZero_polyNorm (p : Poly) : isZero (polyNorm p) = isZero p := by
  rw [isZero, polyNorm_polyNorm, isZero]

/-! ### The product (R163) -/

/-- Adding `row` to `acc` at an index adds it times the power of x below it. -/
theorem denote_xorAt {i n : Nat} {row acc : Poly} (h : acc.length = i + row.length + n) :
    denote (xorAt i row acc) = denote acc + denote row * Polynomial.X ^ n := by
  induction acc generalizing i row with
  | nil =>
    rw [List.length_nil] at h
    obtain rfl : row = [] := List.length_eq_zero_iff.mp (by omega)
    simp [xorAt]
  | cons a acc ih =>
    rw [List.length_cons] at h
    cases i with
    | succ i =>
      rw [xorAt, denote_cons, ih (by omega), length_xorAt, denote_cons]
      ring
    | zero =>
      cases row with
      | nil => simp [xorAt]
      | cons r row =>
        rw [List.length_cons] at h
        have hlen : acc.length = row.length + n := by omega
        rw [xorAt, denote_cons, ih (by omega), length_xorAt, denote_cons, denote_cons, embed_xor, Polynomial.C_add,
          hlen, pow_add]
        ring

/-- The loops of the product add P times Q. -/
theorem denote_pmulLoop {q : Poly} {i : Nat} {p r : Poly} (h : i + p.length + q.length = r.length + 1) :
    denote (pmulLoop q i p r) = denote r + denote p * denote q := by
  induction p generalizing i r with
  | nil => simp [pmulLoop]
  | cons c p ih =>
    rw [List.length_cons] at h
    have hlen : r.length = i + q.length + p.length := by omega
    rw [pmulLoop, ih (by rw [length_xorAt]; omega), denote_xorAt (by simpa using hlen), denote_map_gfMul, denote_cons]
    ring

theorem pmul_of_denote_eq_zero {p q : Poly} (h : denote p = 0 ∨ denote q = 0) : pmul p q = [0] := by
  rw [pmul, isZero_polyNorm, isZero_polyNorm, if_pos]
  simpa [isZero_iff] using h

theorem pmul_of_denote_ne_zero {p q : Poly} (hp : denote p ≠ 0) (hq : denote q ≠ 0) :
    pmul p q = pmulLoop (polyNorm q) 0 (polyNorm p)
      (List.replicate ((polyNorm p).length + (polyNorm q).length - 1) 0) := by
  rw [pmul, isZero_polyNorm, isZero_polyNorm, if_neg]
  simp [isZero_eq_false_iff, hp, hq]

theorem denote_pmul (p q : Poly) : denote (pmul p q) = denote p * denote q := by
  by_cases h : denote p = 0 ∨ denote q = 0
  · rw [pmul_of_denote_eq_zero h, mul_eq_zero.mpr h]
    exact denote_zero_cons []
  · obtain ⟨hp, hq⟩ := not_or.mp h
    have hlen := length_polyNorm p
    rw [pmul_of_denote_ne_zero hp hq, denote_pmulLoop (by rw [List.length_replicate]; omega)]
    simp

/-- A product is a normal form: its length is that of its degree, the sum of the factors' degrees. -/
theorem polyNorm_pmul (p q : Poly) : polyNorm (pmul p q) = pmul p q := by
  by_cases h : denote p = 0 ∨ denote q = 0
  · rw [pmul_of_denote_eq_zero h]
    rfl
  · obtain ⟨hp, hq⟩ := not_or.mp h
    rw [polyNorm_eq_self_iff, denote_pmul, Polynomial.natDegree_mul hp hq, pmul_of_denote_ne_zero hp hq,
      length_pmulLoop, List.length_replicate, length_polyNorm, length_polyNorm]
    omega

theorem pmul_eq_pmul {p q p' q' : Poly} (h : denote p * denote q = denote p' * denote q') : pmul p q = pmul p' q' := by
  rw [← polyNorm_pmul p, ← polyNorm_pmul p', polyNorm_eq_polyNorm_iff, denote_pmul, denote_pmul, h]

/-- R163: the coefficients of the product are the convolution. -/
theorem coeff_pmul (p q : Poly) (k : Nat) : coeff (pmul p q) k =
    xorSum ((List.range (k + 1)).map fun i => gfMul (coeff p i) (coeff q (k - i))) := by
  apply embed_injective
  rw [embed_xorSum, ← coeff_denote, denote_pmul, Polynomial.coeff_mul,
    Finset.Nat.sum_antidiagonal_eq_sum_range_succ_mk]
  simp only [coeff_denote, embed_gfMul]

/-! ### The remainder (R164) -/

/-- What lists denote is closed under addition. -/
theorem exists_denote_eq_add (p q : Poly) : ∃ r, denote r = denote p + denote q := by
  refine ⟨xorAt p.length q (List.replicate q.length 0 ++ p), ?_⟩
  rw [denote_xorAt (n := 0) (by simp [Nat.add_comm]), denote_append]
  simp

/-- A pass takes a multiple of the divisor off the dividend. -/
theorem exists_denote_eq_mul_add_pmodPass {p d : Poly} (h : d.length ≤ p.length) :
    ∃ q, denote p = denote q * denote d + denote (pmodPass p d) := by
  refine ⟨gfQuot (p.headD 0) (d.headD 0) :: List.replicate (p.length - d.length) 0#8, ?_⟩
  rw [pmodPass, denote_polyNorm, denote_xorAt (n := p.length - d.length) (by rw [List.length_map]; omega),
    denote_map_gfMul_right, denote_cons, List.length_replicate, denote_replicate_zero, add_zero]
  generalize Polynomial.C (embed (gfQuot (p.headD 0) (d.headD 0))) = f
  linear_combination -ZModModule.add_self (f * denote d * Polynomial.X ^ (p.length - d.length))

theorem exists_denote_eq_mul_add_pmodLoop (d : Poly) (fuel : Nat) (p : Poly) :
    ∃ q, denote p = denote q * denote d + denote (pmodLoop d fuel p) := by
  induction fuel generalizing p with
  | zero => exact ⟨[], by simp [pmodLoop]⟩
  | succ fuel ih =>
    rw [pmodLoop]
    split
    · rename_i hcond
      obtain ⟨-, hlen⟩ : _ ∧ d.length ≤ p.length := by simpa using hcond
      obtain ⟨q₁, h₁⟩ := exists_denote_eq_mul_add_pmodPass hlen
      obtain ⟨q₂, h₂⟩ := ih (pmodPass p d)
      obtain ⟨q, hq⟩ := exists_denote_eq_add q₁ q₂
      refine ⟨q, ?_⟩
      rw [h₁, h₂, hq]
      ring
    · exact ⟨[], by simp⟩

theorem polyNorm_pmodLoop {p : Poly} (d : Poly) (fuel : Nat) (h : polyNorm p = p) :
    polyNorm (pmodLoop d fuel p) = pmodLoop d fuel p := by
  induction fuel generalizing p with
  | zero => exact h
  | succ fuel ih =>
    rw [pmodLoop]
    split
    · exact ih (polyNorm_polyNorm _)
    · exact h

theorem pmod_of_denote_eq_zero (p : Poly) {d : Poly} (hd : denote d = 0) : pmod p d = .error .invalidArgument := by
  rw [pmod, isZero_polyNorm, if_pos (isZero_iff.mpr hd)]

theorem pmod_of_denote_ne_zero (p : Poly) {d : Poly} (hd : denote d ≠ 0) :
    pmod p d = .ok (pmodLoop (polyNorm d) (polyNorm p).length (polyNorm p)) := by
  rw [pmod, isZero_polyNorm, isZero_eq_false_iff.mpr hd, if_neg Bool.false_ne_true]

theorem exists_pmod_ok (p : Poly) {d : Poly} (hd : denote d ≠ 0) : ∃ r, pmod p d = .ok r :=
  ⟨_, pmod_of_denote_ne_zero p hd⟩

theorem denote_ne_zero_of_pmod_ok {p d r : Poly} (h : pmod p d = .ok r) : denote d ≠ 0 := by
  intro hd
  rw [pmod_of_denote_eq_zero p hd] at h
  simp at h

theorem polyNorm_of_pmod_ok {p d r : Poly} (h : pmod p d = .ok r) : polyNorm r = r := by
  rw [pmod_of_denote_ne_zero p (denote_ne_zero_of_pmod_ok h)] at h
  exact Except.ok.inj h ▸ polyNorm_pmodLoop _ _ (polyNorm_polyNorm p)

/-- R171(d): the dividend is a multiple of the divisor and the remainder. -/
theorem exists_quotient {p d r : Poly} (h : pmod p d = .ok r) : ∃ q, denote p = denote q * denote d + denote r := by
  rw [pmod_of_denote_ne_zero p (denote_ne_zero_of_pmod_ok h)] at h
  obtain ⟨q, hq⟩ := exists_denote_eq_mul_add_pmodLoop (polyNorm d) (polyNorm p).length (polyNorm p)
  exact ⟨q, by simpa [Except.ok.inj h] using hq⟩

theorem eq_zero_or_length_lt_of_pmod_ok {p d r : Poly} (h : pmod p d = .ok r) :
    r = [0] ∨ r.length < (polyNorm d).length := by
  obtain ⟨-, hz | hlt⟩ := pmod_ok h
  · rw [isZero, polyNorm_of_pmod_ok h, beq_iff_eq] at hz
    exact .inl hz
  · exact .inr hlt

theorem degree_lt_of_pmod_ok {p d r : Poly} (h : pmod p d = .ok r) : (denote r).degree < (denote d).degree := by
  obtain hz | hlt := eq_zero_or_length_lt_of_pmod_ok h
  · rw [hz, show denote [0] = 0 from denote_zero_cons [], Polynomial.degree_zero, bot_lt_iff_ne_bot]
    exact Polynomial.degree_ne_bot.mpr (denote_ne_zero_of_pmod_ok h)
  · rw [← polyNorm_of_pmod_ok h, length_polyNorm, length_polyNorm] at hlt
    exact Polynomial.degree_lt_degree (by omega)

/-- The remainder is the polynomial remainder: by its degree it is the only candidate. -/
theorem denote_of_pmod_ok {p d r : Poly} (h : pmod p d = .ok r) : denote r = denote p % denote d := by
  have hd := denote_ne_zero_of_pmod_ok h
  obtain ⟨q, hq⟩ := exists_quotient h
  calc denote r = denote r % denote d := ((Polynomial.mod_eq_self_iff hd).mpr (degree_lt_of_pmod_ok h)).symm
    _ = denote p % denote d := (Polynomial.mod_eq_of_dvd_sub ⟨denote q, by rw [hq]; ring⟩).symm

theorem pmod_eq_ok {p d r : Poly} (hd : denote d ≠ 0) (hr : polyNorm r = r) (h : denote r = denote p % denote d) :
    pmod p d = .ok r := by
  obtain ⟨r', hr'⟩ := exists_pmod_ok p hd
  have same : polyNorm r' = polyNorm r := polyNorm_eq_polyNorm_iff.mpr ((denote_of_pmod_ok hr').trans h.symm)
  rw [hr', ← polyNorm_of_pmod_ok hr', same, hr]

/-- The remainder is 0 for the multiples of the divisor. -/
theorem pmod_eq_ok_zero {p d : Poly} (hd : denote d ≠ 0) (h : denote d ∣ denote p) : pmod p d = .ok [0] :=
  pmod_eq_ok hd rfl (by simpa using (EuclideanDomain.mod_eq_zero.mpr h).symm)

/-! ### The generator (R165) -/

theorem denote_gen (t : Nat) :
    denote (gen t) = ∏ i ∈ Finset.range t, (Polynomial.X + Polynomial.C (generator ^ i)) := by
  induction t with
  | zero => simp [gen]
  | succ t ih =>
    rw [gen, denote_pmul, ih, Finset.prod_range_succ, denote_cons, denote_singleton, embed_gfExpTable]
    simp

theorem polyNorm_gen (t : Nat) : polyNorm (gen t) = gen t := by
  cases t with
  | zero => rfl
  | succ t => exact polyNorm_pmul _ _

theorem monic_denote_gen (t : Nat) : (denote (gen t)).Monic := by
  rw [denote_gen]
  exact Polynomial.monic_prod_of_monic _ _ fun i _ => Polynomial.monic_X_add_C _

theorem length_gen (t : Nat) : (gen t).length = t + 1 := by
  rw [← polyNorm_gen, length_polyNorm, denote_gen,
    Polynomial.natDegree_prod_of_monic _ _ fun i _ => Polynomial.monic_X_add_C _]
  simp only [Polynomial.natDegree_X_add_C, Finset.sum_const, Finset.card_range, smul_eq_mul, mul_one]

theorem headD_gen (t : Nat) : (gen t).headD 0 = 1 := by
  apply embed_injective
  rw [← polyNorm_gen, embed_headD_polyNorm, (monic_denote_gen t).leadingCoeff]
  exact embed_one.symm

/-- A multiple of the generator has the generator's roots. -/
theorem evalAt_eq_zero_of_gen_dvd {t i : Nat} {p : Poly} (h : denote (gen t) ∣ denote p) (hi : i < t) :
    evalAt p (gfExpTable (i % 255)) = 0 := by
  rw [← embed_eq_zero, embed_evalAt, embed_gfExpTable]
  refine Polynomial.eval_eq_zero_of_dvd_of_eval_eq_zero h ?_
  rw [denote_gen, Polynomial.eval_prod]
  exact Finset.prod_eq_zero (Finset.mem_range.mpr hi) (by simp [ZModModule.add_self])

/-! ### The ECC codewords (R166) -/

theorem rsecc_of_pmod_ok {data : List Byte} {t : Nat} {r : Poly}
    (h : pmod (data ++ List.replicate t 0) (gen t) = .ok r) : rsecc data t =
      .ok (if isZero r then List.replicate t 0 else List.replicate (t - r.length) 0 ++ r) := by
  rw [rsecc, h]
  exact (apply_ite Except.ok _ _ _).symm

/-- The ECC codewords denote the remainder of the shifted data: the zeros before it do not count. -/
theorem exists_rsecc (data : List Byte) (t : Nat) : ∃ e r, rsecc data t = .ok e ∧
    pmod (data ++ List.replicate t 0) (gen t) = .ok r ∧ denote e = denote r := by
  obtain ⟨r, hr⟩ := exists_pmod_ok (data ++ List.replicate t 0) (monic_denote_gen t).ne_zero
  refine ⟨_, r, rsecc_of_pmod_ok hr, hr, ?_⟩
  split
  · rename_i hz
    simp [isZero_iff.mp hz]
  · simp [denote_append]

/-- R171(e): data and ECC codewords together are a multiple of the generator. -/
theorem gen_dvd_codeword {data e : List Byte} {t : Nat} (h : rsecc data t = .ok e) :
    denote (gen t) ∣ denote (data ++ e) := by
  obtain ⟨e', r, he, hr, hdenote⟩ := exists_rsecc data t
  obtain rfl : e' = e := Except.ok.inj (he.symm.trans h)
  obtain ⟨q, hq⟩ := exists_quotient hr
  have shifted : denote (data ++ List.replicate t 0) = denote data * Polynomial.X ^ t := by simp [denote_append]
  refine ⟨denote q, ?_⟩
  calc denote (data ++ e') = denote data * Polynomial.X ^ t + denote r := by
        rw [denote_append, length_rsecc h, hdenote]
    _ = denote q * denote (gen t) + (denote r + denote r) := by rw [← shifted, hq, add_assoc]
    _ = denote (gen t) * denote q := by rw [ZModModule.add_self, add_zero, mul_comm]

/-! ### The commands' outcomes (R162, R167-R170) -/

theorem polyMulOutcome_of_lenOk {s : State} (ha : polyLenOk s.paLen = true) (hb : polyLenOk s.pbLen = true) :
    polyMulOutcome s = if 256 < (pmul s.polyA s.polyB).length then .error .lengthError
      else .ok (s.storePr (pmul s.polyA s.polyB)) := by
  rw [polyMulOutcome, ha, hb]
  rfl

theorem polyMulOutcome_of_bad_len {s : State} (h : polyLenOk s.paLen = false ∨ polyLenOk s.pbLen = false) :
    polyMulOutcome s = .error .lengthError := by
  rcases h with h | h <;> simp [polyMulOutcome, h]

theorem polyModOutcome_of_lenOk {s : State} (ha : polyLenOk s.paLen = true) (hb : polyLenOk s.pbLen = true) :
    polyModOutcome s = resPoly s (pmod s.polyA s.polyB) := by
  simp [polyModOutcome, ha, hb]

theorem polyModOutcome_of_bad_len {s : State} (h : polyLenOk s.paLen = false ∨ polyLenOk s.pbLen = false) :
    polyModOutcome s = .error .lengthError := by
  rcases h with h | h <;> simp [polyModOutcome, h]

theorem outcome_rsEcc {t : Byte} (s : State) (ht : 1 ≤ t.toNat) : outcome (.rsEcc t) s = rsEccOutcome t s := by
  have legal : fieldIn 1 255 t = true := by simp [fieldIn, ht, Nat.le_of_lt_succ t.isLt]
  rw [outcome, legal, ifLegal_true]

theorem rsEccOutcome_of_lenOk {s : State} (t : Byte) (h : polyLenOk s.paLen = true) :
    rsEccOutcome t s = resPoly s (rsecc s.polyA t.toNat) := by
  simp [rsEccOutcome, h]

theorem rsEccOutcome_of_bad_len {s : State} (t : Byte) (h : polyLenOk s.paLen = false) :
    rsEccOutcome t s = .error .lengthError := by
  simp [rsEccOutcome, h]

@[simp] theorem resPoly_of_ok (s : State) (p : Poly) : resPoly s (.ok p) = .ok (s.storePr p) := rfl

@[simp] theorem resPoly_of_error (s : State) (c : ErrorCode) : resPoly s (.error c) = .error c := rfl

/-- Settles O16: embedded in the field, the coefficients of `pmul` are those of a product of polynomials. -/
theorem polyMulIsTheConvolution : Obligations.PolyMulIsTheConvolution := by
  refine ⟨fun s ha hb => ?_, fun s h => ?_⟩
  · refine ⟨pmul s.polyA s.polyB, polyNorm_pmul _ _, coeff_pmul _ _, fun hlen => ?_, fun hlen => ?_⟩
    · rw [exec_eq_complete, outcome, polyMulOutcome_of_lenOk ha hb, if_neg (Nat.not_lt.mpr hlen), complete_ok]
    · rw [exec_eq_complete, outcome, polyMulOutcome_of_lenOk ha hb, if_pos hlen, complete_error]
  · rw [exec_eq_complete, outcome, polyMulOutcome_of_bad_len h, complete_error]

/-- Settles O17: each pass takes a multiple of the divisor off, and the loop ends below the divisor's length. -/
theorem polyModIsTheRemainder : Obligations.PolyModIsTheRemainder := by
  refine ⟨fun s ha hb hd => ?_, fun s ha hb hd => ?_, fun s h => ?_⟩
  · obtain ⟨r, hr⟩ := exists_pmod_ok s.polyA (isZero_eq_false_iff.mp hd)
    obtain ⟨q, hq⟩ := exists_quotient hr
    refine ⟨r, q, polyNorm_of_pmod_ok hr, eq_zero_or_length_lt_of_pmod_ok hr, fun k => embed_injective ?_, ?_⟩
    · rw [embed_xor, ← coeff_denote, ← coeff_denote, ← coeff_denote, denote_pmul, hq, Polynomial.coeff_add]
    · rw [exec_eq_complete, outcome, polyModOutcome_of_lenOk ha hb, hr, resPoly_of_ok, complete_ok]
  · rw [exec_eq_complete, outcome, polyModOutcome_of_lenOk ha hb, pmod_of_denote_eq_zero _ (isZero_iff.mp hd),
      resPoly_of_error, complete_error]
  · rw [exec_eq_complete, outcome, polyModOutcome_of_bad_len h, complete_error]

/-- Settles O18: the generator denotes the product of the factors x + α^i, which is monic. -/
theorem rsGenHasItsRoots : Obligations.RsGenHasItsRoots := fun t _ =>
  ⟨gen t.toNat, rfl, length_gen _, headD_gen _, fun _ hi => evalAt_eq_zero_of_gen_dvd dvd_rfl hi⟩

/-- Settles O19: adding the remainder of the shifted data makes a multiple of the generator. -/
theorem rsEccMakesACodeword : Obligations.RsEccMakesACodeword := by
  refine ⟨fun t s ht ha => ?_, fun t s ht ha => ?_⟩
  · obtain ⟨e, -, he, -⟩ := exists_rsecc s.polyA t.toNat
    have codeword := gen_dvd_codeword he
    refine ⟨e, ?_, length_rsecc he, fun i hi => ?_, pmod_eq_ok_zero (monic_denote_gen _).ne_zero codeword⟩
    · rw [exec_eq_complete, outcome_rsEcc s ht, rsEccOutcome_of_lenOk t ha, he, resPoly_of_ok, complete_ok]
    · rw [← Nat.mod_eq_of_lt (show i < 255 by omega)]
      exact evalAt_eq_zero_of_gen_dvd codeword hi
  · rw [exec_eq_complete, outcome_rsEcc s ht, rsEccOutcome_of_bad_len t ha, complete_error]

/-- Settles O20: byte polynomials are polynomials over a field, whose product and remainder have these laws, and each
has one normal form. -/
theorem polynomialLaws : Obligations.PolynomialLaws := by
  refine ⟨fun p d r h => ?_, fun p q => ?_, fun p q r => ?_, fun p => ?_, fun p d hd => ?_⟩
  · have hd := denote_ne_zero_of_pmod_ok h
    refine pmod_eq_ok hd (polyNorm_of_pmod_ok h) ?_
    exact ((Polynomial.mod_eq_self_iff hd).mpr (degree_lt_of_pmod_ok h)).symm
  · exact pmul_eq_pmul (mul_comm _ _)
  · exact pmul_eq_pmul (by rw [denote_pmul, denote_pmul, mul_assoc])
  · rw [← polyNorm_pmul, polyNorm_eq_polyNorm_iff, denote_pmul]
    simp
  · exact pmod_eq_ok_zero (isZero_eq_false_iff.mp hd) (denote_pmul p d ▸ dvd_mul_left _ _)

end Sys2Proof.Machine

/-! ## The QR Code tables (spec/43_tables_bitbuf.md R190-R197) -/

namespace Sys2Proof.Machine

/-! ### The fields of the result words -/

theorem toNat_field8 {n : Nat} (h : n < 256) : (field8 n).toNat = n := Nat.mod_eq_of_lt h

@[simp] theorem field8_zero : field8 0 = 0#8 := rfl

theorem extractLsb'_word_zeros (b : Byte) : (word b 0 0 0).extractLsb' 0 24 = 0 := by
  refine BitVec.eq_of_getLsbD_eq fun i hi => ?_
  have low : i < 8 ∨ i - 8 < 8 ∨ i - 8 - 8 < 8 := by omega
  rw [BitVec.getLsbD_extractLsb', getLsbD_word]
  rcases low with low | low | low <;> simp [low]

/-! ### The block table -/

/-- The group has blocks, its blocks hold their data, and its numbers fit their fields (R196). -/
def BlockGroup.reportable (g : BlockGroup) : Bool :=
  decide (1 ≤ g.count) && decide (g.data ≤ g.total) && decide (g.count < 256) && decide (g.total < 256)

theorem BlockGroup.reportable_iff {g : BlockGroup} :
    g.reportable = true ↔ 1 ≤ g.count ∧ g.data ≤ g.total ∧ g.count < 256 ∧ g.total < 256 := by
  simp [BlockGroup.reportable, and_assoc]

theorem BlockGroup.toNat_fields {g : BlockGroup} (h : g.reportable = true) :
    (field8 g.count).toNat = g.count ∧ (field8 g.total).toNat = g.total ∧ (field8 g.data).toNat = g.data ∧
      (field8 (g.total - g.data)).toNat = g.total - g.data := by
  obtain ⟨-, hle, hcount, htotal⟩ := BlockGroup.reportable_iff.mp h
  exact ⟨toNat_field8 hcount, toNat_field8 htotal, toNat_field8 (by omega), toNat_field8 (by omega)⟩

/-- One group, or two of which the second's blocks are one data codeword longer (R190). -/
def oneOrTwoGroups : List BlockGroup → Bool
  | [g] => g.reportable
  | [g, h] => g.reportable && h.reportable && decide (h.data = g.data + 1)
  | _ => false

theorem oneOrTwoGroups_blockGroups {v : Nat} (lv : Level) (h1 : 1 ≤ v) (h2 : v ≤ 40) :
    oneOrTwoGroups (blockGroups v lv) = true := by
  have table : ∀ lv ∈ [Level.L, .M, .Q, .H], ∀ v < 40, oneOrTwoGroups (blockGroups (v + 1) lv) = true := by
    decide +kernel
  obtain ⟨u, rfl⟩ := Nat.exists_eq_add_of_le' h1
  exact table lv (by cases lv <;> simp) u (by omega)

theorem oneOrTwoGroups_cases {gs : List BlockGroup} (h : oneOrTwoGroups gs = true) :
    ∃ g, g.reportable = true ∧
      (gs = [g] ∨ ∃ g', g'.reportable = true ∧ g'.data = g.data + 1 ∧ gs = [g, g']) := by
  match gs, h with
  | [g], h => exact ⟨g, h, .inl rfl⟩
  | [g, g'], h =>
    simp only [oneOrTwoGroups, Bool.and_eq_true, decide_eq_true_eq] at h
    obtain ⟨⟨hg, hg'⟩, hdata⟩ := h
    exact ⟨g, hg, .inr ⟨g', hg', hdata, rfl⟩⟩

/-! ### TBL_QUERY (R196) -/

theorem outcome_tblQuery {ecc ver : Byte} (s : State) (he : ecc.toNat ≤ 3) (h1 : 1 ≤ ver.toNat)
    (h40 : ver.toNat ≤ 40) :
    outcome (.tblQuery ecc ver) s = .ok (s.setRes (queryWords ver.toNat (levelOf (ecc.setWidth 2))).1
      (queryWords ver.toNat (levelOf (ecc.setWidth 2))).2) := by
  have legal : (fieldIn 0 3 ecc && fieldIn 1 40 ver) = true := by simp [fieldIn, he, h1, h40]
  rw [outcome, legal, ifLegal_true]

theorem toNat_field8_countWidth (v : Nat) : (field8 (countWidth v)).toNat = if v ≤ 9 then 8 else 16 := by
  rw [toNat_field8 (by unfold countWidth; split <;> omega), countWidth]

theorem queryWords_of_one_group {v : Nat} {lv : Level} {g : BlockGroup} (h : blockGroups v lv = [g]) :
    queryWords v lv = (word (field8 (g.total - g.data)) (field8 g.data) (field8 g.total) (field8 g.count),
      word (field8 (countWidth v)) 0 0 0) := by
  simp [queryWords, h]

theorem queryWords_of_two_groups {v : Nat} {lv : Level} {g g' : BlockGroup} (h : blockGroups v lv = [g, g']) :
    queryWords v lv = (word (field8 (g.total - g.data)) (field8 g.data) (field8 g.total) (field8 g.count),
      word (field8 (countWidth v)) (field8 g'.data) (field8 g'.total) (field8 g'.count)) := by
  simp [queryWords, h]

theorem mem_blockList {v : Nat} {lv : Level} {g : BlockGroup} (hg : g ∈ blockGroups v lv) (h : 1 ≤ g.count) :
    (g.total, g.data) ∈ blockList v lv :=
  List.mem_flatMap.mpr ⟨g, hg, List.mem_replicate.mpr ⟨by omega, rfl⟩⟩

/-- Blocks of different groups differ in their data codewords. -/
theorem blocks_differ {v : Nat} {lv : Level} {g g' : BlockGroup} (h : blockGroups v lv = [g, g']) (hg : 1 ≤ g.count)
    (hg' : 1 ≤ g'.count) (hdata : g'.data = g.data + 1) : ¬∀ p ∈ blockList v lv, ∀ q ∈ blockList v lv, p = q := by
  intro same
  have equal : g.data = g'.data :=
    congrArg Prod.snd (same _ (mem_blockList (by simp [h]) hg) _ (mem_blockList (by simp [h]) hg'))
  omega

/-- Settles O21: a row of the table is one group, whose second word then spells no blocks, or two groups that
differ. -/
theorem tblQueryReportsTheBlocks : Obligations.TblQueryReportsTheBlocks := by
  intro ecc ver s he h1 h40
  refine ⟨_, _, by rw [exec_eq_complete, outcome_tblQuery s he h1 h40, complete_ok], ?_⟩
  generalize levelOf (ecc.setWidth 2) = lv
  obtain ⟨g, hg, hgs | ⟨g', hg', hdata, hgs⟩⟩ := oneOrTwoGroups_cases (oneOrTwoGroups_blockGroups lv h1 h40)
  · obtain ⟨hpos, hle, -, -⟩ := BlockGroup.reportable_iff.mp hg
    obtain ⟨count, total, data, eccs⟩ := BlockGroup.toNat_fields hg
    simp only [queryWords_of_one_group hgs, opField_word, f2Field_word, f1Field_word, f0Field_word, count, total, data,
      eccs]
    exact ⟨by simp [blockList, hgs], hpos, .inl rfl, fun _ => extractLsb'_word_zeros _, by omega,
      toNat_field8_countWidth _, fun _ => by simp⟩
  · obtain ⟨hpos, hle, -, -⟩ := BlockGroup.reportable_iff.mp hg
    obtain ⟨hpos', -⟩ := BlockGroup.reportable_iff.mp hg'
    obtain ⟨count, total, data, eccs⟩ := BlockGroup.toNat_fields hg
    obtain ⟨count', total', data', -⟩ := BlockGroup.toNat_fields hg'
    simp only [queryWords_of_two_groups hgs, opField_word, f2Field_word, f1Field_word, f0Field_word, count, total, data,
      eccs, count', total', data']
    exact ⟨by simp [blockList, hgs], hpos, .inr hdata, fun same => absurd same (blocks_differ hgs hpos hpos' hdata),
      by omega, toNat_field8_countWidth _, fun none => by omega⟩

/-! ### TBL_ALIGN (R195, R197) -/

theorem alignCenters_reportable {v : Nat} (h1 : 1 ≤ v) (h2 : v ≤ 40) :
    (alignCenters v).length ≤ 7 ∧ ∀ c ∈ alignCenters v, c < 256 := by
  have table : ∀ v < 40, (alignCenters (v + 1)).length ≤ 7 ∧ ∀ c ∈ alignCenters (v + 1), c < 256 := by
    decide +kernel
  obtain ⟨u, rfl⟩ := Nat.exists_eq_add_of_le' h1
  exact table u (by omega)

/-- The fields of a list's first `n` places, those beyond its end 0. -/
theorem map_field8_getD {cs : List Nat} {n : Nat} (hlen : cs.length ≤ n) (hc : ∀ c ∈ cs, c < 256) :
    (List.range n).map (fun k => (field8 (cs.getD k 0)).toNat) = cs ++ List.replicate (n - cs.length) 0 := by
  have len : n = cs.length + (n - cs.length) := by omega
  refine List.ext_getElem (by simpa using len) fun k hk _ => ?_
  rw [List.getElem_map, List.getElem_range, List.getElem_append]
  split
  · rename_i h
    rw [List.getD_eq_getElem _ _ h, toNat_field8 (hc _ (List.getElem_mem h))]
  · rename_i h
    rw [List.getD_eq_default _ _ (Nat.le_of_not_lt h), List.getElem_replicate]
    rfl

theorem outcome_tblAlign {ver : Byte} (s : State) (h1 : 1 ≤ ver.toNat) (h40 : ver.toNat ≤ 40) :
    outcome (.tblAlign ver) s = .ok (s.setRes (alignWords ver.toNat).1 (alignWords ver.toNat).2) := by
  have legal : fieldIn 1 40 ver = true := by simp [fieldIn, h1, h40]
  rw [outcome, legal, ifLegal_true]

/-- Settles O22: a row of the table has seven centers at most, and each fits its field. -/
theorem tblAlignReportsTheCenters : Obligations.TblAlignReportsTheCenters := by
  intro ver s h1 h40
  obtain ⟨hlen, hc⟩ := alignCenters_reportable h1 h40
  refine ⟨_, _, by rw [exec_eq_complete, outcome_tblAlign s h1 h40, complete_ok], ?_, ?_⟩
  · rw [alignWords, opField_word, toNat_field8 (by omega)]
  · rw [← map_field8_getD hlen hc]
    simp only [alignWords, opField_word, f2Field_word, f1Field_word, f0Field_word]
    rfl

end Sys2Proof.Machine

/-! ## The bit buffer (spec/43_tables_bitbuf.md R205-R209) -/

namespace Sys2Proof.Machine

/-! ### The bits of a value -/

theorem getElem_bitsOf {v n k : Nat} (h : k < (bitsOf v n).length) : (bitsOf v n)[k] = v.testBit (n - 1 - k) := by
  simp [bitsOf]

/-- The bits of a joined value are the bits of its parts, the high part first. -/
theorem bitsOf_join (v w n m : Nat) :
    bitsOf (v % 2 ^ n * 2 ^ m + w % 2 ^ m) (n + m) = bitsOf v n ++ bitsOf w m := by
  refine List.ext_getElem (by simp) fun k hk _ => ?_
  have hk : k < n + m := by simpa using hk
  rw [getElem_bitsOf, List.getElem_append, Nat.mul_comm,
    Nat.testBit_two_pow_mul_add _ (Nat.mod_lt _ (Nat.two_pow_pos m))]
  simp only [length_bitsOf, getElem_bitsOf, Nat.testBit_mod_two_pow]
  by_cases h : k < n
  · rw [dif_pos h, if_neg (by omega), show n + m - 1 - k - m = n - 1 - k by omega]
    simp [show n - 1 - k < n by omega]
  · rw [dif_neg h, if_pos (by omega), show n + m - 1 - k = m - 1 - (k - n) by omega]
    simp [show m - 1 - (k - n) < m by omega]

theorem appendBits_append (bs cs : List Bool) {s t : State} (h : appendBits bs s = .ok t) :
    appendBits (bs ++ cs) s = appendBits cs t := by
  induction bs generalizing s with
  | nil => rw [List.nil_append, Except.ok.inj h]
  | cons b bs ih =>
    obtain ⟨u, hu, ht⟩ := appendBits_cons_ok h
    rw [List.cons_append, appendBits, hu]
    exact ih ht

/-- Settles O25: both append the bits of the joined value, one after another. -/
theorem putsConcatenate : Obligations.PutsConcatenate := by
  intro v w n m s t u _ ht hu
  rw [bitsOf_join, appendBits_append _ _ ht, hu]

/-! ### Appending one bit (R205) -/

section
variable {s t : State} {b : Bool}

theorem appendBit_of_room (b : Bool) (h : s.bbLen.toNat < 32768) : ∃ t, appendBit b s = .ok t :=
  ⟨_, if_neg (Nat.not_le.mpr h)⟩

theorem appendBit_of_full (b : Bool) (h : 32768 ≤ s.bbLen.toNat) : appendBit b s = .error .bufferOverflow :=
  if_pos h

theorem bbLen_appendBit (h : appendBit b s = .ok t) : t.bbLen.toNat = s.bbLen.toNat + 1 := by
  obtain ⟨room, v, rfl⟩ := appendBit_ok h
  rw [storeBit_bbLen, BitVec.toNat_ofNat]
  omega

theorem ramByte_appendBit {a : Nat} (h : appendBit b s = .ok t) (ha : a ≠ Window.base .bb + s.bbLen.toNat / 8) :
    t.ramByte a = s.ramByte a := by
  obtain ⟨-, v, rfl⟩ := appendBit_ok h
  exact ramByte_congr (Memory.read_write_other _ _ ha) rfl

/-- The bits of the buffer's last byte beyond its length are 0 (R205). -/
def State.TailClear (s : State) : Prop :=
  ∀ p, s.bbLen.toNat ≤ p → p < 8 * ((s.bbLen.toNat + 7) / 8) → s.bbBit p = false

/-- The byte that takes the new bit is a fresh one, or holds the bits appended to it before. -/
theorem appendBit_byte (h : appendBit b s = .ok t) :
    ∃ old : Byte, t.ramByte (Window.base .bb + s.bbLen.toNat / 8) =
        old ||| BitVec.ofNat 8 (b.toNat <<< (7 - s.bbLen.toNat % 8)) ∧
      (∀ p, p / 8 = s.bbLen.toNat / 8 → p < s.bbLen.toNat → old.getLsbD (7 - p % 8) = s.bbBit p) ∧
      (s.TailClear → ∀ p, p / 8 = s.bbLen.toNat / 8 → s.bbLen.toNat ≤ p → old.getLsbD (7 - p % 8) = false) := by
  obtain ⟨old, fresh, begun, rfl⟩ := appendBit_stores h
  refine ⟨old, ramByte_of_listed (Memory.read_write_same _ _ _), fun p hbyte hp => ?_, fun clear p hbyte hp => ?_⟩
  · rw [begun (by omega), State.bbBit, hbyte]
  · by_cases h0 : s.bbLen.toNat % 8 = 0
    · simp [fresh h0]
    · rw [begun h0, ← hbyte]
      exact clear p hp (by omega)

/-- A bit moved into place `i` of a byte where it is 0 stands there. -/
theorem getLsbD_or_shifted_self {old : Byte} {i : Nat} (b : Bool) (hi : i < 8) (h : old.getLsbD i = false) :
    (old ||| BitVec.ofNat 8 (b.toNat <<< i)).getLsbD i = b := by
  have : (b.toNat <<< i).testBit i = b := by cases b <;> simp [Nat.one_shiftLeft]
  rw [BitVec.getLsbD_or, BitVec.getLsbD_ofNat, h, this, decide_eq_true hi, Bool.true_and, Bool.false_or]

theorem bbBit_appendBit_of_lt {p : Nat} (h : appendBit b s = .ok t) (hp : p < s.bbLen.toNat) :
    t.bbBit p = s.bbBit p := by
  by_cases hbyte : p / 8 = s.bbLen.toNat / 8
  · obtain ⟨old, byte, held, -⟩ := appendBit_byte h
    rw [State.bbBit, hbyte, byte, getLsbD_or_shifted b (by omega), held p hbyte hp]
  · rw [State.bbBit, ramByte_appendBit h (by omega), State.bbBit]

theorem bbBit_appendBit_last (clear : s.TailClear) (h : appendBit b s = .ok t) : t.bbBit s.bbLen.toNat = b := by
  obtain ⟨old, byte, -, unused⟩ := appendBit_byte h
  rw [State.bbBit, byte, getLsbD_or_shifted_self b (by omega) (unused clear _ rfl le_rfl)]

theorem State.TailClear.appendBit (clear : s.TailClear) (h : appendBit b s = .ok t) : t.TailClear := by
  intro p h1 h2
  rw [bbLen_appendBit h] at h1 h2
  have hbyte : p / 8 = s.bbLen.toNat / 8 := by omega
  obtain ⟨old, byte, -, unused⟩ := appendBit_byte h
  rw [State.bbBit, hbyte, byte, getLsbD_or_shifted b (by omega), unused clear p hbyte (by omega)]

end

/-! ### Appending bits (R205, R207) -/

section
variable {s t : State} {bs : List Bool}

theorem appendBits_of_room (bs : List Bool) (h : s.bbLen.toNat + bs.length ≤ 32768) :
    ∃ t, appendBits bs s = .ok t := by
  induction bs generalizing s with
  | nil => exact ⟨s, rfl⟩
  | cons b bs ih =>
    rw [List.length_cons] at h
    obtain ⟨u, hu⟩ := appendBit_of_room b (show s.bbLen.toNat < 32768 by omega)
    obtain ⟨t, ht⟩ := ih (s := u) (by rw [bbLen_appendBit hu]; omega)
    exact ⟨t, by rw [appendBits, hu]; exact ht⟩

theorem bbLen_appendBits (h : appendBits bs s = .ok t) : t.bbLen.toNat = s.bbLen.toNat + bs.length := by
  induction bs generalizing s with
  | nil => rw [← Except.ok.inj h, List.length_nil, Nat.add_zero]
  | cons b bs ih =>
    obtain ⟨u, hu, ht⟩ := appendBits_cons_ok h
    rw [ih ht, bbLen_appendBit hu, List.length_cons]
    omega

theorem ramByte_appendBits {a : Nat} (h : appendBits bs s = .ok t)
    (ha : ∀ k < bs.length, a ≠ Window.base .bb + (s.bbLen.toNat + k) / 8) : t.ramByte a = s.ramByte a := by
  induction bs generalizing s with
  | nil => rw [← Except.ok.inj h]
  | cons b bs ih =>
    obtain ⟨u, hu, ht⟩ := appendBits_cons_ok h
    rw [ih ht fun k hk => ?_, ramByte_appendBit hu (ha 0 (by simp))]
    rw [bbLen_appendBit hu, Nat.add_assoc, Nat.add_comm 1]
    exact ha (k + 1) (by simpa using hk)

theorem bbBit_appendBits_of_lt {p : Nat} (h : appendBits bs s = .ok t) (hp : p < s.bbLen.toNat) :
    t.bbBit p = s.bbBit p := by
  induction bs generalizing s with
  | nil => rw [← Except.ok.inj h]
  | cons b bs ih =>
    obtain ⟨u, hu, ht⟩ := appendBits_cons_ok h
    rw [ih ht (by rw [bbLen_appendBit hu]; omega), bbBit_appendBit_of_lt hu hp]

theorem bbBit_appendBits_appended {k : Nat} (clear : s.TailClear) (h : appendBits bs s = .ok t)
    (hk : k < bs.length) : t.bbBit (s.bbLen.toNat + k) = bs[k] := by
  induction bs generalizing s k with
  | nil => simp at hk
  | cons b bs ih =>
    obtain ⟨u, hu, ht⟩ := appendBits_cons_ok h
    have len := bbLen_appendBit hu
    cases k with
    | zero => rw [bbBit_appendBits_of_lt ht (by omega)]; exact bbBit_appendBit_last clear hu
    | succ k =>
      have rest := ih (clear.appendBit hu) ht (Nat.lt_of_succ_lt_succ hk)
      rwa [len, Nat.add_assoc, Nat.add_comm 1] at rest

end

/-! ### The commands (R206-R208) -/

@[simp] theorem ramByte_succeed (s : State) (a : Nat) : s.succeed.ramByte a = s.ramByte a := rfl

@[simp] theorem bbBit_succeed (s : State) (p : Nat) : s.succeed.bbBit p = s.bbBit p := rfl

theorem outcome_bbPut {n : Byte} (s : State) (h : n.toNat ≤ 32) :
    outcome (.bbPut n) s = bbPutOutcome n.toNat s := by
  have legal : fieldIn 0 32 n = true := by simp [fieldIn, h]
  rw [outcome, legal, ifLegal_true]

theorem outcome_bbPutBit {b : Byte} (s : State) (h : b.toNat ≤ 1) :
    outcome (.bbPutBit b) s = appendBit (decide (b = 1)) s := by
  have legal : fieldIn 0 1 b = true := by simp [fieldIn, h]
  rw [outcome, legal, ifLegal_true]
  rfl

theorem bbPutOutcome_of_room {n : Nat} {s : State} (h : s.bbLen.toNat + n ≤ 32768) :
    bbPutOutcome n s = appendBits (bitsOf s.arg0.toNat n) s := if_neg (Nat.not_lt.mpr h)

theorem bbPutOutcome_of_no_room {n : Nat} {s : State} (h : 32768 < s.bbLen.toNat + n) :
    bbPutOutcome n s = .error .bufferOverflow := if_pos h

/-- Settles O24: an appended bit goes where the buffer's last byte is clear, and the bytes of the other bits stay. -/
theorem bitBufferCommands : Obligations.BitBufferCommands := by
  refine ⟨fun n s hinv hn room => ?_, fun b s hinv hb room => ?_, fun n s hn full => ?_, fun b s hb full => ?_,
    fun s => ⟨s.clearBb.succeed, rfl, rfl, rfl⟩⟩
  · obtain ⟨t, ht⟩ := appendBits_of_room (bitsOf s.arg0.toNat n.toNat) (by rwa [length_bitsOf])
    refine ⟨t.succeed, ?_, rfl, ?_⟩
    · rw [exec_eq_complete, outcome_bbPut s hn, bbPutOutcome_of_room room, ht, complete_ok]
    · simp only [succeed_bbLen, ramByte_succeed, bbBit_succeed]
      refine ⟨by rw [bbLen_appendBits ht, length_bitsOf], fun p => bbBit_appendBits_of_lt ht, fun k hk => ?_,
        fun a ha => ramByte_appendBits ht (by rwa [length_bitsOf])⟩
      rw [bbBit_appendBits_appended hinv.bbTail ht (by rwa [length_bitsOf]), getElem_bitsOf, BitVec.testBit_toNat]
  · obtain ⟨t, ht⟩ := appendBit_of_room (decide (b = 1)) room
    refine ⟨t.succeed, ?_, rfl, ?_⟩
    · rw [exec_eq_complete, outcome_bbPutBit s hb, ht, complete_ok]
    · simp only [succeed_bbLen, ramByte_succeed, bbBit_succeed]
      exact ⟨bbLen_appendBit ht, fun p => bbBit_appendBit_of_lt ht, bbBit_appendBit_last hinv.bbTail ht,
        fun a => ramByte_appendBit ht⟩
  · rw [exec_eq_complete, outcome_bbPut s hn, bbPutOutcome_of_no_room full, complete_error]
  · rw [exec_eq_complete, outcome_bbPutBit s hb, appendBit_of_full _ full, complete_error]

end Sys2Proof.Machine

/-! ## Codeword construction (spec/44_symbol_builder.md R227-R238) -/

namespace Sys2Proof.Machine

/-! ### The bits of the data codewords (R230, R231) -/

/-- A number's bits are those of its half, then its lowest. -/
theorem bitsOf_two_mul_add (v n : Nat) (b : Bool) : bitsOf (2 * v + b.toNat) (n + 1) = bitsOf v n ++ [b] := by
  refine List.ext_getElem (by simp) fun k hk _ => ?_
  rw [length_bitsOf] at hk
  rw [getElem_bitsOf, List.getElem_append]
  split
  · rename_i h
    rw [length_bitsOf] at h
    rw [getElem_bitsOf, show n + 1 - 1 - k = n - 1 - k + 1 by omega, Nat.testBit_add_one]
    congr 1
    have : b.toNat ≤ 1 := Bool.toNat_le b
    omega
  · rename_i h
    rw [length_bitsOf] at h
    obtain rfl : k = n := by omega
    cases b <;> simp [Nat.testBit_zero]

/-- The bits of a number written bit by bit are those written. -/
theorem bitsOf_foldl (bits : List Bool) : bitsOf (bits.foldl (fun n b => 2 * n + b.toNat) 0) bits.length = bits := by
  induction bits using List.reverseRecOn with
  | nil => rfl
  | append_singleton bits b ih => simp [bitsOf_two_mul_add, ih]

theorem bitsOf_mod_two_pow (v n : Nat) : bitsOf (v % 2 ^ n) n = bitsOf v n := by
  refine List.ext_getElem (by simp) fun k hk _ => ?_
  rw [length_bitsOf] at hk
  rw [getElem_bitsOf, getElem_bitsOf, Nat.testBit_mod_two_pow, decide_eq_true (by omega), Bool.true_and]

theorem bitsOf_bitsToByte {bits : List Bool} (h : bits.length = 8) : bitsOf (bitsToByte bits).toNat 8 = bits := by
  rw [bitsToByte, BitVec.toNat_ofNat, bitsOf_mod_two_pow]
  exact h ▸ bitsOf_foldl bits

/-- Whole bytes of bits, packed, hold these bits (R205). -/
theorem bytesToBits_bitsToBytes {n : Nat} {bits : List Bool} (h : bits.length = 8 * n) :
    bytesToBits (bitsToBytes n bits) = bits := by
  induction n generalizing bits with
  | zero => simpa [bitsToBytes, bytesToBits] using (List.length_eq_zero_iff.mp h).symm
  | succ n ih =>
    have rest := ih (bits := bits.drop 8) (by rw [List.length_drop]; omega)
    rw [bytesToBits] at rest
    rw [bitsToBytes, bytesToBits, List.flatMap_cons, bitsOf_bitsToByte (by rw [List.length_take]; omega), rest,
      List.take_append_drop]

theorem bytesToBits_append (a b : List Byte) : bytesToBits (a ++ b) = bytesToBits a ++ bytesToBits b :=
  List.flatMap_append

/-- What steps 2 and 3 of R230 add are zeros up to a byte boundary, four of them at least where the terminator fits,
and else none beyond the capacity (R231). -/
theorem byteAligned_terminated {n : Nat} {bits : List Bool} (h : bits.length ≤ 8 * n) :
    ∃ z k, byteAligned (terminated (8 * n) bits) = bits ++ List.replicate z false ∧ bits.length + z = 8 * k ∧
      z < 12 ∧ (4 ≤ z ∨ k = n) := by
  by_cases fits : bits.length + 4 ≤ 8 * n
  · have zeros : bitsOf 0 4 = List.replicate 4 false := rfl
    refine ⟨4 + (8 - (bits.length + 4) % 8) % 8, (bits.length + 4 + 7) / 8, ?_, by omega, by omega,
      .inl (by omega)⟩
    rw [terminated, if_pos fits, byteAligned, List.length_append, length_bitsOf, zeros, List.append_assoc,
      List.replicate_append_replicate]
  · refine ⟨(8 - bits.length % 8) % 8, n, ?_, by omega, by omega, .inr rfl⟩
    rw [terminated, if_neg fits, byteAligned]

/-- The data codewords are the aligned bits, packed, and the pad bytes (R230). -/
theorem buildData_ok {segs : List (List Byte)} {v : Nat} {lv : Level} {d : List Byte}
    (h : buildData segs v lv = .ok d) : bitLen (segs.map List.length) v ≤ 8 * dataCount v lv ∧
      ∃ bits k, bits = byteAligned (terminated (8 * dataCount v lv) (segs.flatMap (segBits v))) ∧
        k = bits.length / 8 ∧ d = bitsToBytes k bits ++ (List.range (dataCount v lv - k)).map padByte := by
  simp only [buildData] at h
  split at h
  · simp at h
  · exact ⟨Nat.le_of_not_lt ‹_›, _, _, rfl, rfl, (Except.ok.inj h).symm⟩

/-- Settles O34: the aligned bits fill whole bytes, and are all of them where no terminator fits. -/
theorem dataCodewordsCarryTheSegments : Obligations.DataCodewordsCarryTheSegments := by
  intro segs v lv d h
  refine ⟨length_buildData h, ?_⟩
  obtain ⟨fits, bits, k, hbits, hk, rfl⟩ := buildData_ok h
  obtain ⟨z, n, aligned, len, hz, four⟩ := byteAligned_terminated (length_flatMap_segBits v segs ▸ fits)
  rw [aligned] at hbits
  have hlen : bits.length = 8 * n := by rw [hbits, List.length_append, List.length_replicate, len]
  obtain rfl : k = n := by omega
  refine ⟨z, dataCount v lv - k, ?_, hz, four.imp_right (by omega)⟩
  rw [bytesToBits_append, bytesToBits_bitsToBytes hlen, hbits]
  rfl

/-! ### When a build succeeds (R230, R234) -/

theorem blockEccs_cons {data : List Byte} {ds : List (List Byte)} {t k : Nat} {bs : List (Nat × Nat)}
    {e : List Byte} {es : List (List Byte)} (he : rsecc data (t - k) = .ok e) (hes : blockEccs ds bs = .ok es) :
    blockEccs (data :: ds) ((t, k) :: bs) = .ok (e :: es) := by
  simp only [blockEccs, he, hes]

/-- No generator is zero, so every block has its ECC codewords; each block's are those of its data (R234). -/
theorem exists_blockEccs (ds : List (List Byte)) (bs : List (Nat × Nat)) :
    ∃ es : List (List Byte), blockEccs ds bs = .ok es ∧
      ∀ (j : Nat) (x : List Byte) (t k : Nat), ds[j]? = some x → bs[j]? = some (t, k) →
        ∃ e : List Byte, es[j]? = some e ∧ rsecc x (t - k) = .ok e := by
  induction ds generalizing bs with
  | nil => exact ⟨[], by cases bs <;> rfl, by simp⟩
  | cons d ds ih =>
    obtain - | ⟨⟨t, k⟩, bs⟩ := bs
    · exact ⟨[], rfl, by simp⟩
    · obtain ⟨e, -, he, -⟩ := exists_rsecc d (t - k)
      obtain ⟨es, hes, rest⟩ := ih bs
      refine ⟨e :: es, blockEccs_cons he hes, fun j x t' k' hx hb => ?_⟩
      cases j with
      | zero =>
        obtain rfl : d = x := by simpa using hx
        obtain ⟨rfl, rfl⟩ : t = t' ∧ k = k' := by simpa using hb
        exact ⟨e, rfl, he⟩
      | succ j => exact rest j x t' k' hx hb

theorem codewordSequence_of_blockEccs {d : List Byte} {bs : List (Nat × Nat)} {es : List (List Byte)}
    (h : blockEccs (splitBlocks d bs) bs = .ok es) :
    codewordSequence d bs = .ok (interleave (splitBlocks d bs) ++ interleave es) := by
  simp only [codewordSequence, h]

theorem exists_codewordSequence (d : List Byte) (bs : List (Nat × Nat)) : ∃ c, codewordSequence d bs = .ok c := by
  obtain ⟨es, hes, -⟩ := exists_blockEccs (splitBlocks d bs) bs
  exact ⟨_, codewordSequence_of_blockEccs hes⟩

@[simp] theorem length_ramBytes (s : State) (a n : Nat) : (s.ramBytes a n).length = n := by simp [State.ramBytes]

/-- The lengths buildData sees are the registers' (R232). -/
theorem map_length_segBytes (s : State) : (s.segList.map s.segBytes).map List.length = s.segLens := by
  simp [State.segLens, State.segBytes, State.inbufBytes]

theorem buildCodewords_of_fits {s : State} (h : s.fits s.qrVer.toNat) : ∃ t, buildCodewords s = .ok t := by
  cases hd : buildData (s.segList.map s.segBytes) s.qrVer.toNat (levelOf s.cfg.ecc) with
  | error c =>
    obtain ⟨-, full⟩ := buildData_error_iff.mp hd
    rw [map_length_segBytes] at full
    exact absurd h (Nat.not_le.mpr full)
  | ok d =>
    obtain ⟨c, hc⟩ := exists_codewordSequence d (blockList s.qrVer.toNat (levelOf s.cfg.ecc))
    exact ⟨_, by simp only [buildCodewords, hd, hc]; rfl⟩

theorem buildCodewords_of_not_fits {s : State} (h : ¬s.fits s.qrVer.toNat) :
    buildCodewords s = .error .codeLengthOverflow := by
  have hd : buildData (s.segList.map s.segBytes) s.qrVer.toNat (levelOf s.cfg.ecc) = .error .codeLengthOverflow :=
    buildData_error_iff.mpr ⟨rfl, by rw [map_length_segBytes]; exact Nat.lt_of_not_le h⟩
  simp only [buildCodewords, hd]

/-- The one error of a build (R230). -/
theorem buildCodewords_error {s : State} {c : ErrorCode} (h : buildCodewords s = .error c) :
    c = .codeLengthOverflow := by
  by_cases fits : s.fits s.qrVer.toNat
  · obtain ⟨t, ht⟩ := buildCodewords_of_fits fits
    simp [ht] at h
  · rw [buildCodewords_of_not_fits fits] at h
    exact (Except.error.inj h).symm

theorem ensureCw_of_canBuild {s : State} (h : s.canBuild) : ∃ t, ensureCw s = .ok t := by
  cases hv : s.cwValid with
  | true => exact ⟨s, by rw [ensureCw, hv, if_pos rfl]⟩
  | false =>
    obtain ⟨t, ht⟩ := buildCodewords_of_fits (h.resolve_left (by simp [hv]))
    exact ⟨t, by rw [ensureCw, hv, if_neg Bool.false_ne_true, ht]⟩

theorem ensureCw_of_not_canBuild {s : State} (h : ¬s.canBuild) : ensureCw s = .error .codeLengthOverflow := by
  obtain ⟨hv, fits⟩ := not_or.mp h
  rw [ensureCw, if_neg hv, buildCodewords_of_not_fits fits]

/-! ### Blocks and their interleaving (R233, R235) -/

/-- Block `j` takes its bytes after those of the blocks before it (R233). -/
theorem getElem?_splitBlocks {d : List Byte} {bs : List (Nat × Nat)} {j t k : Nat} (h : bs[j]? = some (t, k)) :
    (splitBlocks d bs)[j]? = some ((d.drop ((bs.take j).map Prod.snd).sum).take k) := by
  induction bs generalizing d j with
  | nil => simp at h
  | cons b bs ih =>
    cases j with
    | zero =>
      obtain rfl : b = (t, k) := by simpa using h
      simp [splitBlocks]
    | succ j =>
      rw [splitBlocks, List.getElem?_cons_succ, ih (by simpa using h)]
      simp [List.drop_drop]

/-- The columns before `n` hold the first `n` bytes of each list. -/
theorem sum_length_columns_below (n : Nat) (xs : List (List Byte)) :
    ((List.range n).map (fun i => (xs.filterMap (fun x => x[i]?)).length)).sum =
      ((xs.map List.length).map (min n)).sum := by
  induction xs with
  | nil => simp
  | cons x xs ih =>
    simp only [length_column_cons, List.sum_map_add, sum_range_ite_lt, ih, List.map_cons, List.sum_cons,
      Nat.min_comm]

/-- In column `i` the byte of list `j` comes after those of the lists before it that reach the column. -/
theorem getElem?_column {xs : List (List Byte)} {x : List Byte} {j i : Nat} (hj : xs[j]? = some x)
    (hi : i < x.length) : (xs.filterMap (fun x => x[i]?))[
      (((xs.map List.length).take j).filter (fun n => decide (i < n))).length]? = x[i]? := by
  induction xs generalizing j with
  | nil => simp at hj
  | cons y xs ih =>
    cases j with
    | zero =>
      obtain rfl : y = x := by simpa using hj
      simp [hi]
    | succ j =>
      have rest := ih (by simpa using hj)
      by_cases hy : i < y.length
      · simpa [hy] using rest
      · simpa [hy] using rest

/-- An entry of a concatenation over a range: what comes before it is what the smaller indices give. -/
theorem getElem?_flatMap_range {α : Type} {f : Nat → List α} {n i p : Nat} (hi : i < n) (hp : p < (f i).length) :
    ((List.range n).flatMap f)[((List.range i).map (fun m => (f m).length)).sum + p]? = (f i)[p]? := by
  obtain ⟨m, rfl⟩ : ∃ m, n = i + 1 + m := ⟨n - (i + 1), by omega⟩
  rw [List.range_add, List.range_succ, List.flatMap_append, List.flatMap_append, List.flatMap_singleton,
    List.append_assoc, ← List.length_flatMap, List.getElem?_append_right (Nat.le_add_right _ _),
    Nat.add_sub_cancel_left, List.getElem?_append_left hp]

/-- Byte `i` of list `j` stands in the interleaving at its index column by column (R235). -/
theorem getElem?_interleave {xs : List (List Byte)} {x : List Byte} {j i : Nat} (hj : xs[j]? = some x)
    (hi : i < x.length) : (interleave xs)[columnIndex (xs.map List.length) j i]? = x[i]? := by
  have column := getElem?_column hj hi
  have reached : i < (xs.map List.length).foldl max 0 := by
    rw [List.foldl_max]
    exact hi.trans_le ((List.le_max?_getD_of_mem (List.mem_map_of_mem (List.mem_of_getElem? hj))).trans
      (le_max_right _ _))
  have inside : (((xs.map List.length).take j).filter (fun n => decide (i < n))).length <
      (xs.filterMap (fun x => x[i]?)).length := by
    rw [List.getElem?_eq_getElem hi] at column
    exact (List.getElem?_eq_some_iff.mp column).1
  rw [columnIndex, ← sum_length_columns_below]
  exact (getElem?_flatMap_range reached inside).trans column

/-- Block `j` of the codeword sequence: its data bytes and its ECC bytes, each at its index column by column, the
ECC bytes after all data bytes (R233-R237). -/
theorem getElem?_codewordSequence {d out : List Byte} {bs : List (Nat × Nat)} {j t k : Nat}
    (hd : (bs.map Prod.snd).sum ≤ d.length) (h : codewordSequence d bs = .ok out) (hj : bs[j]? = some (t, k)) :
    ∃ x e : List Byte, x = (d.drop ((bs.take j).map Prod.snd).sum).take k ∧ x.length = k ∧
      rsecc x (t - k) = .ok e ∧
      (∀ i, i < k → out[columnIndex (bs.map Prod.snd) j i]? = x[i]?) ∧
      (∀ i, i < t - k →
        out[(bs.map Prod.snd).sum + columnIndex (bs.map (fun b => b.1 - b.2)) j i]? = e[i]?) := by
  have lens := map_length_splitBlocks hd
  obtain ⟨es, hes, eccs⟩ := exists_blockEccs (splitBlocks d bs) bs
  have eccLens := map_length_blockEccs (by simpa using congrArg List.length lens) hes
  obtain rfl : _ = out := Except.ok.inj ((codewordSequence_of_blockEccs hes).symm.trans h)
  have hx := getElem?_splitBlocks (d := d) hj
  generalize hdef : (d.drop ((bs.take j).map Prod.snd).sum).take k = x at hx
  obtain ⟨e, he, hecc⟩ := eccs j x t k hx hj
  have xlen : x.length = k := by
    have := congrArg (fun l => l[j]?) lens
    simpa [hx, hj] using this
  subst xlen
  refine ⟨x, e, rfl, rfl, hecc, fun i hi => ?_, fun i hi => ?_⟩
  · have data := getElem?_interleave hx hi
    have inside := data.trans (List.getElem?_eq_getElem hi)
    rw [← lens, List.getElem?_append_left (List.getElem?_eq_some_iff.mp inside).1, data]
  · rw [← lens, ← length_interleave, List.getElem?_append_right (Nat.le_add_right _ _), Nat.add_sub_cancel_left,
      ← eccLens, getElem?_interleave he (by rw [length_rsecc hecc]; exact hi)]

/-! ### What a build stores (R232) -/

theorem ramBytes_of_listed {s : State} {a : Nat} {l : List Byte} (h : ∀ k < l.length, s.mem.read (a + k) = l[k]?) :
    s.ramBytes a l.length = l := by
  refine List.ext_getElem (by simp) fun k _ hk => ?_
  simp only [State.ramBytes, List.getElem_map, List.getElem_range]
  exact ramByte_of_listed ((h k hk).trans (List.getElem?_eq_getElem hk))

/-- A window whose bytes are replaced reads as the new ones. -/
theorem read_setWindow_self (m : Memory) (w : Window) {l : List Byte} {k : Nat} (hk : k < l.length)
    (hl : l.length ≤ w.size) : (m.setWindow w.base w.size l).read (w.base + k) = l[k]? := by
  rw [Memory.read_setWindow_inside (by omega) (by omega), List.take_of_length_le hl, Nat.add_sub_cancel_left]

theorem ramBytes_bb_storeCodewords (s : State) {d : List Byte} (c : List Byte) (dc tc : Nat) (hd : d.length ≤ 4096) :
    (s.storeCodewords d c dc tc).ramBytes (Window.base .bb) d.length = d := by
  refine ramBytes_of_listed fun k hk => ?_
  have outside := read_setWindow_other (s.mem.setWindow (Window.base .bb) (Window.size .bb) d) (w := .bb) (x := .cw) c
    (by simp) (show k < 4096 by omega)
  rw [storeCodewords_mem, outside]
  exact read_setWindow_self s.mem .bb hk hd

theorem ramBytes_cw_storeCodewords (s : State) (d : List Byte) {c : List Byte} (dc tc : Nat) (hc : c.length ≤ 4096) :
    (s.storeCodewords d c dc tc).ramBytes (Window.base .cw) c.length = c :=
  ramBytes_of_listed fun _ hk => read_setWindow_self _ .cw hk hc

/-- The codeword sequence of the table's blocks has TC(v) bytes (R237). -/
theorem length_codewordSequence_blockList {v : Nat} {lv : Level} {d c : List Byte} (hv : v ≤ 40)
    (hd : d.length = dataCount v lv) (h : codewordSequence d (blockList v lv) = .ok c) : c.length = totalCount v lv :=
  (length_codewordSequence (by rw [sum_data_blockList, hd]) (fun _ => data_le_total_of_mem_blockList hv) h).trans
    (sum_total_blockList _ _)

theorem codewordsOutcome_of_hasVersion {s : State} (h : s.qrState.hasVersion = true) :
    codewordsOutcome s = buildCodewords s := if_pos h

/-- Settles O33: the table's counts fit their registers and windows, and the interleaving puts each byte at its
index. -/
theorem qrCodewordsBuildsTheSequence : Obligations.QrCodewordsBuildsTheSequence := by
  refine ⟨fun s inv hv => ⟨fun fits => ?_, fun full => ?_⟩, fun v lv d h1 h40 hd => ?_⟩
  · obtain ⟨t, ht⟩ := buildCodewords_of_fits fits
    obtain ⟨d, c, hd, hc, rfl⟩ := buildCodewords_ok ht
    have dlen := length_buildData hd
    have clen := length_codewordSequence_blockList inv.ver_le dlen hc
    obtain ⟨dlt, clt⟩ := codewordCounts_lt inv.ver_le (levelOf s.cfg.ecc)
    rw [← dlen, ← clen] at ht
    rw [← dlen] at dlt
    rw [← clen] at clt
    refine ⟨(s.storeCodewords d c d.length c.length).succeed, d, c, ?_, rfl, rfl, hd, hc, dlen, clen, ?_, ?_, ?_,
      ramBytes_bb_storeCodewords s c d.length c.length dlt.le, ?_, rfl, rfl, rfl, rfl⟩
    · rw [exec_eq_complete, outcome, codewordsOutcome_of_hasVersion hv, ht, complete_ok]
    · rw [succeed_bbLen, storeCodewords_bbLen, BitVec.toNat_ofNat]
      omega
    · exact Nat.mod_eq_of_lt dlt
    · exact Nat.mod_eq_of_lt clt
    · exact clen ▸ ramBytes_cw_storeCodewords s d d.length c.length clt.le
  · rw [exec_eq_complete, outcome, codewordsOutcome_of_hasVersion hv, buildCodewords_of_not_fits full, complete_error]
  · obtain ⟨out, hout⟩ := exists_codewordSequence d (blockList v lv)
    refine ⟨out, hout, length_codewordSequence_blockList h40 hd hout, fun j t k hj => ?_⟩
    obtain ⟨x, e, hx, xlen, he, data, ecc⟩ :=
      getElem?_codewordSequence (by rw [sum_data_blockList, hd]) hout hj
    rw [sum_data_blockList] at ecc
    exact ⟨x, e, hx, xlen, length_rsecc he, pmod_eq_ok_zero (monic_denote_gen _).ne_zero (gen_dvd_codeword he), data,
      ecc⟩

end Sys2Proof.Machine

/-! ## The symbol builder's commands (spec/44_symbol_builder.md R221-R239) -/

namespace Sys2Proof.Machine

/-! ### QR_CLEAR and QR_CONFIG (R222-R224) -/

theorem exec_qrClear (s : State) :
    exec .qrClear s = .next (((s.invalidate.setVersion 0).clearSegs).setQrState .empty).succeed := rfl

theorem writesReg_qrClear {r : Reg} (hr : r ∉ [Reg.status, .errcode, .qrVer, .qrSize, .qrMask, .cwLen])
    (hseg : isSegReg r = false) : writesReg .qrClear r = false := by
  cases r <;> simp_all [writesReg, invalidated, isSegReg]

/-- Settles O29: the frame of QR_CLEAR leaves alone all that it does not list. -/
theorem qrClearDropsTheBuild : Obligations.QrClearDropsTheBuild := by
  intro s
  have k := keeps_exec (exec_qrClear s)
  refine ⟨_, exec_qrClear s, by simp, by simp [State.noBuild], by simp, by simp, by simp, by simp, by simp, by simp,
    by simp, by simp, by simp, by simp, by simp, by simp, fun j hj => k.windowByte hj rfl,
    fun j hj => k.windowByte hj rfl, k.irqEn, k.ovr, fun r hr hseg => ?_,
    fun w j hcw hmatrix hj => k.windowByte hj (by simp [writesWindow, hcw, hmatrix])⟩
  exact k.regs r (by rintro rfl; simp at hr) (by rintro rfl; simp at hr) (writesReg_qrClear hr hseg)

/-- Two fields side by side, as a number. -/
theorem toNat_append_eq_add {m n : Nat} (x : BitVec m) (y : BitVec n) : (x ++ y).toNat = x.toNat * 2 ^ n + y.toNat := by
  rw [BitVec.toNat_append, ← Nat.shiftLeft_add_eq_or_of_lt y.isLt, Nat.shiftLeft_eq]

/-- QR_CFG as a number (R35). -/
theorem toNat_cfgWord (s : State) :
    s.cfgWord.toNat = s.cfg.vreq.toNat + 256 * s.cfg.ecc.toNat + 4096 * s.cfg.mreq.toNat := by
  simp only [State.cfgWord, toNat_append_eq_add, BitVec.ofNat_eq_ofNat, BitVec.toNat_ofNat]
  omega

theorem outcome_qrConfig {mreq ecc vreq : Byte} (s : State) (hm : mreq.toNat ≤ 8) (he : ecc.toNat ≤ 3)
    (hv : vreq.toNat ≤ 40) : outcome (.qrConfig mreq ecc vreq) s = configOutcome mreq ecc vreq s := by
  have legal : (fieldIn 0 8 mreq && fieldIn 0 3 ecc && fieldIn 0 40 vreq) = true := by simp [fieldIn, hm, he, hv]
  rw [outcome, legal, ifLegal_true]

theorem configOutcome_of_open {mreq ecc vreq : Byte} {s : State} (h : s.qrState = .empty ∨ s.qrState = .dataAppended) :
    configOutcome mreq ecc vreq s = .ok (s.setCfg ⟨vreq.setWidth 6, ecc.setWidth 2, mreq.setWidth 4⟩) := by
  rcases h with h | h <;> simp only [configOutcome, h]

theorem configOutcome_of_closed {mreq ecc vreq : Byte} {s : State}
    (h : ¬(s.qrState = .empty ∨ s.qrState = .dataAppended)) :
    configOutcome mreq ecc vreq s = .error .sequenceError := by
  cases hq : s.qrState <;> simp_all [configOutcome]

/-- Settles O30: legal fields fit the fields of QR_CFG. -/
theorem qrConfigWritesTheParameters : Obligations.QrConfigWritesTheParameters := by
  refine fun mreq ecc vreq s hm he hv =>
    ⟨fun hq => ⟨⟨vreq.setWidth 6, ecc.setWidth 2, mreq.setWidth 4⟩, ?_, ?_⟩, fun hq => ?_⟩
  · rw [exec_eq_complete, outcome_qrConfig s hm he hv, configOutcome_of_open hq, complete_ok]
  · rw [State.readReg, toNat_cfgWord]
    simp only [setCfg_cfg, BitVec.toNat_setWidth]
    omega
  · rw [exec_eq_complete, outcome_qrConfig s hm he hv, configOutcome_of_closed hq, complete_error]

/-! ### QR_APPEND (R226) -/

theorem inbufRangeOk_iff {off len : Word} :
    inbufRangeOk off len = true ↔ off.toNat ≤ 4095 ∧ off.toNat + len.toNat ≤ 4096 := by
  simp only [inbufRangeOk, Bool.and_eq_true, decide_eq_true_eq]
  rfl

theorem appendOutcome_of_matrixFinal {s : State} (h : s.qrState = .matrixFinal) :
    appendOutcome s = .error .sequenceError := if_pos h

/-- The segment (ARG0, ARG1), in the two fields that hold it (R44, R226). -/
def State.argSegment (s : State) : Segment := ⟨s.arg0.setWidth 12, s.arg1.setWidth 13⟩

/-- What QR_APPEND leaves where its checks pass (R226). -/
def State.appended (s : State) : State :=
  (((s.addSeg s.argSegment).invalidate).setVersion 0).setQrState .dataAppended

section
variable {s : State} (hq : s.qrState ≠ .matrixFinal)
include hq

theorem appendOutcome_of_bad_range (hr : inbufRangeOk s.arg0 s.arg1 = false) :
    appendOutcome s = .error .rangeError := by
  rw [appendOutcome, if_neg hq, hr]
  rfl

theorem appendOutcome_of_full (hr : inbufRangeOk s.arg0 s.arg1 = true) (full : 8 ≤ s.segCount.toNat) :
    appendOutcome s = .error .bufferOverflow := by
  rw [appendOutcome, if_neg hq, hr, if_neg (by simp),
    if_pos (show Config.maxSegs ≤ s.segCount.toNat from full)]

theorem appendOutcome_of_room (hr : inbufRangeOk s.arg0 s.arg1 = true) (room : s.segCount.toNat < 8) :
    appendOutcome s = .ok s.appended := by
  rw [appendOutcome, if_neg hq, hr, if_neg (by simp),
    if_neg (show ¬Config.maxSegs ≤ s.segCount.toNat from Nat.not_le.mpr room)]
  rfl

end

@[simp] theorem appended_segs (s : State) : s.appended.segs = (s.addSeg s.argSegment).segs := by simp [State.appended]

theorem noBuild_appended (s : State) : s.appended.noBuild := by simp [State.noBuild, State.appended]

theorem toNat_segCount_appended {s : State} (room : s.segCount.toNat < 8) :
    s.appended.segCount.toNat = s.segCount.toNat + 1 := by
  have : s.appended.segCount = s.segCount + 1 := by simp [State.appended]
  bv_omega

/-- A range of INBUF fits the fields of a segment. -/
theorem toNat_argSegment {s : State} (hoff : s.arg0.toNat ≤ 4095) (hlen : s.arg0.toNat + s.arg1.toNat ≤ 4096) :
    s.argSegment.off.toNat = s.arg0.toNat ∧ s.argSegment.len.toNat = s.arg1.toNat := by
  rw [State.argSegment, BitVec.toNat_setWidth, BitVec.toNat_setWidth]
  omega

theorem getElem_addSeg_self {s : State} {k : Fin 8} (g : Segment) (h : k.val = s.segCount.toNat) :
    (s.addSeg g).segs[k] = g := by
  simp [← h]

theorem getElem_addSeg_other {s : State} {k : Fin 8} (g : Segment) (h : k.val ≠ s.segCount.toNat) :
    (s.addSeg g).segs[k] = s.segs[k] := by
  simp [h.symm]

/-- Settles O31: the checks come in the rule's order, and the segment goes to index SEG_COUNT. -/
theorem qrAppendHoldsTheSegment : Obligations.QrAppendHoldsTheSegment := by
  refine ⟨fun s hq hoff hlen room => ⟨s.appended.succeed, ?_, rfl, noBuild_appended s, rfl, rfl,
      toNat_segCount_appended room, fun k hk => ?_, fun k hk => ?_⟩,
    fun s hq => ?_, fun s hq hbad => ?_, fun s hq hoff hlen full => ?_⟩
  · rw [exec_eq_complete, outcome, appendOutcome_of_room hq (inbufRangeOk_iff.mpr ⟨hoff, hlen⟩) room, complete_ok]
  · rw [succeed_segs, appended_segs, getElem_addSeg_self _ hk]
    exact toNat_argSegment hoff hlen
  · rw [succeed_segs, appended_segs, getElem_addSeg_other _ hk]
  · rw [exec_eq_complete, outcome, appendOutcome_of_matrixFinal hq, complete_error]
  · have bad : inbufRangeOk s.arg0 s.arg1 = false := by
      rw [← Bool.not_eq_true, inbufRangeOk_iff]
      omega
    rw [exec_eq_complete, outcome, appendOutcome_of_bad_range hq bad, complete_error]
  · rw [exec_eq_complete, outcome, appendOutcome_of_full hq (inbufRangeOk_iff.mpr ⟨hoff, hlen⟩) full, complete_error]

/-! ### QR_SELVER (R227-R229) -/

/-- Where no version fits, an automatic selection takes none (R228). -/
theorem selectVersion_eq_none {s : State} (h : ∀ v, 1 ≤ v → v ≤ 40 → ¬s.fits v) :
    selectVersion s.segLens (levelOf s.cfg.ecc) = none := by
  rw [selectVersion, List.find?_range'_eq_none]
  intro v h1 h41
  simpa [State.fits] using h v h1 (by omega)

/-- The least version that fits is the one an automatic selection takes (R228). -/
theorem selectVersion_eq_some {s : State} {v : Nat} (h1 : 1 ≤ v) (h40 : v ≤ 40) (hv : s.fits v)
    (least : ∀ u, 1 ≤ u → u < v → ¬s.fits u) : selectVersion s.segLens (levelOf s.cfg.ecc) = some v := by
  rw [selectVersion, List.find?_range'_eq_some]
  refine ⟨by simpa [State.fits] using hv, List.mem_range'_1.mpr ⟨h1, by omega⟩, fun u hu1 huv => ?_⟩
  simpa [State.fits] using least u hu1 huv

/-- Where a version fits, an automatic selection takes one that fits. -/
theorem exists_selectVersion {s : State} (h : ∃ v, 1 ≤ v ∧ v ≤ 40 ∧ s.fits v) :
    ∃ v, selectVersion s.segLens (levelOf s.cfg.ecc) = some v ∧ v ≤ 40 ∧ s.fits v := by
  classical
  obtain ⟨h1, h40, hv⟩ := Nat.find_spec h
  refine ⟨Nat.find h, selectVersion_eq_some h1 h40 hv fun u hu1 hu hfits => ?_, h40, hv⟩
  exact Nat.find_min h hu ⟨hu1, by omega, hfits⟩

section
variable {s : State} (hq : s.qrState = .dataAppended ∨ s.qrState.hasVersion = true)
include hq

theorem selVerOutcome_of_selected (h0 : s.cfg.vreq = 0) {v : Nat}
    (hv : selectVersion s.segLens (levelOf s.cfg.ecc) = some v) :
    selVerOutcome s = .ok (s.selectedVersion (BitVec.ofNat 6 v)) := by
  rw [State.segLens] at hv
  rw [selVerOutcome, if_pos hq, if_pos h0, hv]

theorem selVerOutcome_of_none_selected (h0 : s.cfg.vreq = 0) (hv : selectVersion s.segLens (levelOf s.cfg.ecc) = none) :
    selVerOutcome s = .error .dataTooLong := by
  rw [State.segLens] at hv
  rw [selVerOutcome, if_pos hq, if_pos h0, hv]

theorem selVerOutcome_of_fixed (h0 : s.cfg.vreq ≠ 0) : selVerOutcome s = .ok (s.selectedVersion s.cfg.vreq) := by
  rw [selVerOutcome, if_pos hq, if_neg h0]

/-- The one error of QR_SELVER in the states that allow it. -/
theorem selVerOutcome_error {c : ErrorCode} (h : selVerOutcome s = .error c) : c = .dataTooLong := by
  by_cases h0 : s.cfg.vreq = 0
  · cases hv : selectVersion s.segLens (levelOf s.cfg.ecc) with
    | none => exact (Except.error.inj ((selVerOutcome_of_none_selected hq h0 hv).symm.trans h)).symm
    | some v => simp [selVerOutcome_of_selected hq h0 hv] at h
  · simp [selVerOutcome_of_fixed hq h0] at h

end

theorem selVerOutcome_of_closed {s : State} (hq : ¬(s.qrState = .dataAppended ∨ s.qrState.hasVersion = true)) :
    selVerOutcome s = .error .sequenceError := if_neg hq

theorem noBuild_selectedVersion (s : State) (v : BitVec 6) : (s.selectedVersion v).noBuild := by
  simp [State.noBuild, State.selectedVersion]

@[simp] theorem selectedVersion_cwValid (s : State) (v : BitVec 6) : (s.selectedVersion v).cwValid = false := rfl

theorem toNat_ofNat_version {v : Nat} (h : v ≤ 40) : (BitVec.ofNat 6 v).toNat = v :=
  Nat.mod_eq_of_lt (by omega)

/-- Settles O32: the search from version 1 upwards ends at the least version that fits. -/
theorem qrSelVerTakesTheLeastVersion : Obligations.QrSelVerTakesTheLeastVersion := by
  refine fun s hq => ⟨fun v h0 h1 h40 hv least => ?_, fun h0 none => ?_, fun h0 => ?_⟩
  · refine ⟨(s.selectedVersion (BitVec.ofNat 6 v)).succeed, ?_, rfl, toNat_ofNat_version h40,
      noBuild_selectedVersion s (BitVec.ofNat 6 v), rfl⟩
    rw [exec_eq_complete, outcome, selVerOutcome_of_selected hq h0 (selectVersion_eq_some h1 h40 hv least), complete_ok]
  · rw [exec_eq_complete, outcome, selVerOutcome_of_none_selected hq h0 (selectVersion_eq_none none), complete_error]
  · refine ⟨(s.selectedVersion s.cfg.vreq).succeed, ?_, rfl, rfl, noBuild_selectedVersion s s.cfg.vreq, rfl⟩
    rw [exec_eq_complete, outcome, selVerOutcome_of_fixed hq h0, complete_ok]

/-! ### The layout commands (R238; spec/45_matrix_layout.md R273; spec/46_mask_penalty.md R311, R312) -/

theorem ensureCw_of_cwValid {s : State} (h : s.cwValid = true) : ensureCw s = .ok s := if_pos h

/-- What else ensureCW() leaves as it was (see also `ensureCw_kept`). -/
theorem ensureCw_choice {s t : State} (h : ensureCw s = .ok t) :
    t.cfg = s.cfg ∧ t.chosen = s.chosen ∧ t.chosenValid = s.chosenValid := by
  obtain ⟨-, rfl⟩ | ⟨-, hb⟩ := ensureCw_ok h
  · exact ⟨rfl, rfl, rfl⟩
  · obtain ⟨d, c, -, -, rfl⟩ := buildCodewords_ok hb
    exact ⟨rfl, rfl, rfl⟩

theorem layoutOutcome_of_ensureCw {s t : State} (test : Bool) (mask : BitVec 3) (hv : s.qrState.hasVersion = true)
    (ht : ensureCw s = .ok t) : layoutOutcome test mask s =
      .ok ((t.layOut mask test).setQrState (if test then .matrixLaidOut else .matrixFinal)) := by
  rw [layoutOutcome, if_pos hv, ht]

theorem layoutOutcome_of_not_canBuild {s : State} (test : Bool) (mask : BitVec 3) (hv : s.qrState.hasVersion = true)
    (hb : ¬s.canBuild) : layoutOutcome test mask s = .error .codeLengthOverflow := by
  rw [layoutOutcome, if_pos hv, ensureCw_of_not_canBuild hb]

theorem maskSelOutcome_of_fixed {s : State} (hv : s.qrState.hasVersion = true) (h8 : s.cfg.mreq ≠ 8) :
    maskSelOutcome s = .ok ((s.choose (s.cfg.mreq.setWidth 3)).setQrState .maskChosen) := by
  rw [maskSelOutcome, if_pos hv, if_neg h8]

theorem maskSelOutcome_of_auto {s t : State} (hv : s.qrState.hasVersion = true) (h8 : s.cfg.mreq = 8)
    (ht : ensureCw s = .ok t) : maskSelOutcome s = .ok (t.selectAuto.setQrState .maskChosen) := by
  rw [maskSelOutcome, if_pos hv, if_pos h8, ht]

theorem maskSelOutcome_of_not_canBuild {s : State} (hv : s.qrState.hasVersion = true) (h8 : s.cfg.mreq = 8)
    (hb : ¬s.canBuild) : maskSelOutcome s = .error .codeLengthOverflow := by
  rw [maskSelOutcome, if_pos hv, if_pos h8, ensureCw_of_not_canBuild hb]

theorem finalOutcome_of_ensureCw {s t : State} (hv : s.qrState.hasVersion = true) (hc : s.chosenValid = true)
    (ht : ensureCw s = .ok t) : finalOutcome s = .ok ((t.layOut t.chosen false).setQrState .matrixFinal) := by
  rw [finalOutcome, if_pos (by simp [hv, hc]), ht]

theorem finalOutcome_of_not_canBuild {s : State} (hv : s.qrState.hasVersion = true) (hc : s.chosenValid = true)
    (hb : ¬s.canBuild) : finalOutcome s = .error .codeLengthOverflow := by
  rw [finalOutcome, if_pos (by simp [hv, hc]), ensureCw_of_not_canBuild hb]

@[simp] theorem selectAuto_cfg (s : State) : s.selectAuto.cfg = s.cfg := by
  simp [State.selectAuto, State.layOut, State.storeScoreOf]

@[simp] theorem selectAuto_qrVer (s : State) : s.selectAuto.qrVer = s.qrVer := by
  simp [State.selectAuto, State.layOut, State.storeScoreOf]

@[simp] theorem selectAuto_cwValid (s : State) : s.selectAuto.cwValid = s.cwValid := by
  simp [State.selectAuto, State.layOut, State.storeScoreOf]

@[simp] theorem selectAuto_chosenValid (s : State) : s.selectAuto.chosenValid = true := choose_chosenValid _ _

/-- What QR_MASKSEL leaves behind: a choice, and the codewords, version and configuration it found. -/
theorem maskSelOutcome_kept {s t : State} (h : maskSelOutcome s = .ok t) :
    t.qrState = .maskChosen ∧ t.chosenValid = true ∧ t.cfg = s.cfg ∧ t.qrVer = s.qrVer ∧
      (s.cwValid = true → t.cwValid = true) ∧ (s.cfg.mreq.toNat ≤ 7 → t.chosen.toNat = s.cfg.mreq.toNat) := by
  obtain ⟨-, ⟨h8, u, hu, rfl⟩ | ⟨-, rfl⟩⟩ := maskSelOutcome_ok h
  · obtain ⟨hcw, -, hver⟩ := ensureCw_kept hu
    simp only [setQrState_qrState, setQrState_chosenValid, selectAuto_chosenValid, setQrState_cfg, selectAuto_cfg,
      setQrState_qrVer, selectAuto_qrVer, setQrState_cwValid, selectAuto_cwValid]
    refine ⟨trivial, trivial, (ensureCw_choice hu).1, hver, fun _ => hcw, fun h7 => ?_⟩
    simp [h8] at h7
  · refine ⟨rfl, rfl, rfl, rfl, id, fun h7 => ?_⟩
    show (s.cfg.mreq.setWidth 3).toNat = _
    rw [BitVec.toNat_setWidth]
    omega

/-! ### QR_MAKE (R239) -/

/-- From DataAppended QR_MAKE is QR_SELVER, then QR_MAKE from the state it leaves. -/
theorem makeOutcome_of_dataAppended {s : State} (hq : s.qrState = .dataAppended) :
    makeOutcome s = (selVerOutcome s).bind makeOutcome := by
  cases hs : selVerOutcome s with
  | error c => simp [makeOutcome, hq, hs, thenIf, Except.bind]
  | ok a =>
    have ha : a.qrState = .versionChosen := by
      obtain ⟨-, ⟨-, v, -, rfl⟩ | ⟨-, rfl⟩⟩ := selVerOutcome_ok hs <;> rfl
    simp [makeOutcome, hq, hs, thenIf, Except.bind, ha, QrState.hasVersion]

theorem ne_dataAppended_of_hasVersion {q : QrState} (h : q.hasVersion = true) : q ≠ .dataAppended := by
  rintro rfl
  simp [QrState.hasVersion] at h

/-- With a version and no codewords QR_MAKE builds them, then goes on. -/
theorem makeOutcome_of_not_cwValid {s : State} (hv : s.qrState.hasVersion = true) (hcw : s.cwValid = false) :
    makeOutcome s = (codewordsOutcome s).bind makeOutcome := by
  have hq := ne_dataAppended_of_hasVersion hv
  cases hs : codewordsOutcome s with
  | error c => simp [makeOutcome, hq, hv, hcw, hs, thenIf, Except.bind]
  | ok b =>
    obtain ⟨d, c, -, -, rfl⟩ := buildCodewords_ok (codewordsOutcome_ok hs).2
    simp [makeOutcome, hq, hv, hcw, hs, thenIf, Except.bind]

/-- With codewords and no choice QR_MAKE chooses a mask, then finishes. -/
theorem makeOutcome_of_cwValid {s : State} (hv : s.qrState.hasVersion = true) (hcw : s.cwValid = true)
    (hc : s.chosenValid = false) : makeOutcome s = (maskSelOutcome s).bind finalOutcome := by
  have hq := ne_dataAppended_of_hasVersion hv
  cases hs : maskSelOutcome s <;> simp [makeOutcome, hq, hv, hcw, hc, hs, thenIf, Except.bind]

/-- With codewords and a choice QR_MAKE is QR_FINAL. -/
theorem makeOutcome_of_chosenValid {s : State} (hv : s.qrState.hasVersion = true) (hcw : s.cwValid = true)
    (hc : s.chosenValid = true) : makeOutcome s = finalOutcome s := by
  have hq := ne_dataAppended_of_hasVersion hv
  simp [makeOutcome, hq, hv, hcw, hc, thenIf]

/-! ### QR_MAKE is the pipeline (R239) -/

theorem bind_eq_ok {r : Except ErrorCode State} {f : State → Except ErrorCode State} {t : State} :
    r.bind f = .ok t ↔ ∃ u, r = .ok u ∧ f u = .ok t := by
  cases r <;> simp [Except.bind]

/-- What QR_SELVER leaves behind: a version, and no build (R229). -/
theorem selVerOutcome_kept {s t : State} (h : selVerOutcome s = .ok t) :
    t.qrState.hasVersion = true ∧ t.cwValid = false ∧ t.chosenValid = false := by
  obtain ⟨-, ⟨-, v, -, rfl⟩ | ⟨-, rfl⟩⟩ := selVerOutcome_ok h <;> exact ⟨rfl, rfl, rfl⟩

/-- What QR_CODEWORDS leaves behind: codewords, and the builder's state and choice (R238). -/
theorem codewordsOutcome_kept {s t : State} (h : codewordsOutcome s = .ok t) :
    t.qrState.hasVersion = true ∧ t.cwValid = true ∧ t.chosenValid = s.chosenValid := by
  obtain ⟨hv, hb⟩ := codewordsOutcome_ok h
  obtain ⟨d, c, -, -, rfl⟩ := buildCodewords_ok hb
  exact ⟨hv, rfl, rfl⟩

/-- QR_MAKE from DataAppended succeeds where its four commands do, one after another. -/
theorem makeOutcome_eq_ok {s t : State} (hq : s.qrState = .dataAppended) :
    makeOutcome s = .ok t ↔ ∃ a, selVerOutcome s = .ok a ∧ ∃ b, codewordsOutcome a = .ok b ∧
      ∃ c, maskSelOutcome b = .ok c ∧ finalOutcome c = .ok t := by
  rw [makeOutcome_of_dataAppended hq, bind_eq_ok]
  refine exists_congr fun a => and_congr_right fun ha => ?_
  obtain ⟨hva, hcw, hca⟩ := selVerOutcome_kept ha
  rw [makeOutcome_of_not_cwValid hva hcw, bind_eq_ok]
  refine exists_congr fun b => and_congr_right fun hb => ?_
  obtain ⟨hvb, hcwb, hcb⟩ := codewordsOutcome_kept hb
  rw [makeOutcome_of_cwValid hvb hcwb (hcb.trans hca), bind_eq_ok]

theorem exec_succeeds_iff {i : Instr} {s t : State} :
    exec i s = .next t ∧ t.err = false ↔ ∃ u, outcome i s = .ok u ∧ t = u.succeed := by
  rw [exec_eq_complete]
  cases outcome i s with
  | ok u =>
    simp only [complete_ok, Host.Outcome.next.injEq, Except.ok.injEq, exists_eq_left', eq_comm (a := u.succeed)]
    exact and_iff_left_of_imp fun h => h ▸ rfl
  | error c =>
    simp only [complete_error, Host.Outcome.next.injEq, reduceCtorEq, false_and, exists_false, iff_false, not_and]
    rintro rfl
    simp

theorem runAll_nil_eq_some {s t : State} : runAll [] s = some t ↔ s = t := Option.some_inj

theorem runAll_cons_eq_some {i : Instr} {is : List Instr} {s t : State} :
    runAll (i :: is) s = some t ↔ ∃ u, outcome i s = .ok u ∧ runAll is u.succeed = some t := by
  rw [runAll, exec_eq_complete]
  cases outcome i s <;> simp

theorem buildCodewords_succeed (s : State) : buildCodewords s.succeed = (buildCodewords s).map State.succeed := by
  have segs : s.succeed.segList.map s.succeed.segBytes = s.segList.map s.segBytes := rfl
  simp only [buildCodewords, segs, succeed_qrVer, succeed_cfg]
  split
  · rfl
  · split <;> rfl

theorem ensureCw_succeed (s : State) : ensureCw s.succeed = (ensureCw s).map State.succeed := by
  simp only [ensureCw, succeed_cwValid, buildCodewords_succeed]
  split <;> rfl

/-- QR_CODEWORDS, QR_MASKSEL and QR_FINAL do not read what the completion of the command before them wrote. -/
theorem outcome_succeed {i : Instr} (s : State) (hi : i = .qrCodewords ∨ i = .qrMaskSel ∨ i = .qrFinal) :
    outcome i s.succeed = (outcome i s).map State.succeed := by
  rcases hi with rfl | rfl | rfl
  · simp only [outcome, codewordsOutcome, succeed_qrState, buildCodewords_succeed]
    split <;> rfl
  · simp only [outcome, maskSelOutcome, succeed_qrState, succeed_cfg, ensureCw_succeed]
    split
    · split
      · cases ensureCw s <;> rfl
      · rfl
    · rfl
  · simp only [outcome, finalOutcome, succeed_qrState, succeed_chosenValid, ensureCw_succeed]
    split
    · cases ensureCw s <;> rfl
    · rfl

theorem runAll_succeed_cons {i : Instr} {is : List Instr} {s t : State}
    (hi : i = .qrCodewords ∨ i = .qrMaskSel ∨ i = .qrFinal) :
    runAll (i :: is) s.succeed = some t ↔ ∃ u, outcome i s = .ok u ∧ runAll is u.succeed = some t := by
  rw [runAll_cons_eq_some, outcome_succeed s hi]
  have twice (u : State) : u.succeed.succeed = u.succeed := rfl
  cases outcome i s <;> simp [Except.map, twice]

/-- Settles O40: each of the four commands meets the condition on which QR_MAKE performs it, and none reads the
completion of the one before. -/
theorem qrMakeIsThePipeline : Obligations.QrMakeIsThePipeline := by
  intro s d hq
  rw [exec_succeeds_iff, runAll_cons_eq_some]
  simp only [runAll_succeed_cons, true_or, or_true, outcome, makeOutcome_eq_ok hq, runAll_nil_eq_some]
  constructor
  · rintro ⟨u, ⟨a, ha, b, hb, c, hc, hu⟩, rfl⟩
    exact ⟨a, ha, b, hb, c, hc, u, hu, rfl⟩
  · rintro ⟨a, ha, b, hb, c, hc, u, hu, rfl⟩
    exact ⟨u, ⟨a, ha, b, hb, c, hc, hu⟩, rfl⟩

/-! ### When QR_MAKE succeeds (R239) -/

/-- Codewords built first, or held, make no difference to QR_MAKE. -/
theorem makeOutcome_of_ensureCw {s t : State} (hv : s.qrState.hasVersion = true) (ht : ensureCw s = .ok t) :
    makeOutcome s = makeOutcome t := by
  obtain ⟨-, rfl⟩ | ⟨hcw, hb⟩ := ensureCw_ok ht
  · rfl
  · rw [makeOutcome_of_not_cwValid hv hcw, codewordsOutcome_of_hasVersion hv, hb, Except.bind]

theorem makeOutcome_of_not_canBuild {s : State} (hv : s.qrState.hasVersion = true) (hb : ¬s.canBuild) :
    makeOutcome s = .error .codeLengthOverflow := by
  obtain ⟨hcw, fits⟩ := not_or.mp hb
  rw [makeOutcome_of_not_cwValid hv (by simpa using hcw), codewordsOutcome_of_hasVersion hv,
    buildCodewords_of_not_fits fits, Except.bind]

theorem exists_maskSelOutcome {s : State} (hv : s.qrState.hasVersion = true) (hcw : s.cwValid = true) :
    ∃ t, maskSelOutcome s = .ok t := by
  by_cases h8 : s.cfg.mreq = 8
  · exact ⟨_, maskSelOutcome_of_auto hv h8 (ensureCw_of_cwValid hcw)⟩
  · exact ⟨_, maskSelOutcome_of_fixed hv h8⟩

/-- The symbol QR_MAKE finishes: the layout, with the mask chosen, of a state `c` that has chosen one. -/
def finished (c : State) : State := (c.layOut c.chosen false).setQrState .matrixFinal

section
variable (c : State)

@[simp] theorem finished_qrState : (finished c).qrState = .matrixFinal := setQrState_qrState _ _
@[simp] theorem finished_qrVer : (finished c).qrVer = c.qrVer := by simp [finished, State.layOut]
@[simp] theorem finished_cfg : (finished c).cfg = c.cfg := by simp [finished, State.layOut]
@[simp] theorem finished_chosen : (finished c).chosen = c.chosen := by simp [finished, State.layOut]
@[simp] theorem finished_chosenValid : (finished c).chosenValid = c.chosenValid := by simp [finished, State.layOut]
@[simp] theorem finished_layoutMask : (finished c).layoutMask = c.chosen := by simp [finished, State.layOut]

@[simp] theorem finished_codewords : (finished c).codewords = c.codewords := by
  simp [finished, State.layOut, State.codewords, State.ramBytes, State.ramByte, State.genOf]

/-- MATRIX holds the layout of the codewords, which it leaves as they are (R273). -/
theorem finished_matrix : (finished c).matrix =
    layout (finished c).qrVer.toNat (finished c).cfg.ecc (finished c).chosen (finished c).codewords := by
  simp only [finished_qrVer, finished_cfg, finished_chosen, finished_codewords]
  simp [finished, State.layOut, State.layoutOf]

end

/-- `c` has a choice to finish with that QR_MAKE, begun at `s`, may have made (R239). -/
structure ChosenFrom (s c : State) : Prop where
  chosenValid : c.chosenValid = true
  cfg : c.cfg = s.cfg
  ver : c.qrVer = s.qrVer
  kept : s.chosenValid = true → c.chosen = s.chosen
  fixed : s.chosenValid = false → s.cfg.mreq.toNat ≤ 7 → c.chosen.toNat = s.cfg.mreq.toNat

theorem exists_finished_of_cwValid {s : State} (hv : s.qrState.hasVersion = true) (hcw : s.cwValid = true) :
    ∃ c, makeOutcome s = .ok (finished c) ∧ ChosenFrom s c := by
  cases hc : s.chosenValid with
  | true =>
    refine ⟨s, ?_, hc, rfl, rfl, fun _ => rfl, by simp [hc]⟩
    rw [makeOutcome_of_chosenValid hv hcw hc, finalOutcome_of_ensureCw hv hc (ensureCw_of_cwValid hcw), finished]
  | false =>
    obtain ⟨c, hmask⟩ := exists_maskSelOutcome hv hcw
    obtain ⟨hq, hchosen, hcfg, hver, hheld, hfixed⟩ := maskSelOutcome_kept hmask
    refine ⟨c, ?_, hchosen, hcfg, hver, by simp [hc], fun _ => hfixed⟩
    rw [makeOutcome_of_cwValid hv hcw hc, hmask, Except.bind,
      finalOutcome_of_ensureCw (by rw [hq]; rfl) hchosen (ensureCw_of_cwValid (hheld hcw)), finished]

/-- From a state with a version QR_MAKE finishes where the codewords are held or can be built. -/
theorem exists_finished_of_canBuild {s : State} (hv : s.qrState.hasVersion = true) (hb : s.canBuild) :
    ∃ c, makeOutcome s = .ok (finished c) ∧ ChosenFrom s c := by
  obtain ⟨b, hbuilt⟩ := ensureCw_of_canBuild hb
  obtain ⟨hcw, hq, hver⟩ := ensureCw_kept hbuilt
  obtain ⟨hcfg, hchosen, hvalid⟩ := ensureCw_choice hbuilt
  obtain ⟨c, hmake, hc⟩ := exists_finished_of_cwValid (hq ▸ hv) hcw
  refine ⟨c, makeOutcome_of_ensureCw hv hbuilt ▸ hmake, hc.chosenValid, hc.cfg.trans hcfg, hc.ver.trans hver, ?_, ?_⟩
  · exact fun h => (hc.kept (hvalid.trans h)).trans hchosen
  · exact fun h h7 => by rw [hc.fixed (hvalid.trans h) (hcfg ▸ h7), hcfg]

theorem makeOutcome_of_selVer {s a : State} (hq : s.qrState = .dataAppended) (ha : selVerOutcome s = .ok a) :
    makeOutcome s = makeOutcome a := by
  rw [makeOutcome_of_dataAppended hq, ha, Except.bind]

/-- After QR_SELVER the codewords can be built exactly where the segments fit the version it took. -/
theorem canBuild_selectedVersion {s : State} {v : BitVec 6} : (s.selectedVersion v).canBuild ↔ s.fits v.toNat := by
  simp only [State.canBuild, selectedVersion_cwValid, Bool.false_eq_true, false_or]
  exact Iff.rfl

/-- Where QR_MAKE can finish, it goes on from a state with a version that fits: its own, or the one it selects. -/
theorem State.canMake.versionState {s : State} (h : s.canMake) : ∃ a, makeOutcome s = makeOutcome a ∧
    a.qrState.hasVersion = true ∧ a.canBuild ∧ a.cfg = s.cfg ∧
    (s.qrState.hasVersion = true ∧ a = s ∨
      s.qrState = .dataAppended ∧ a.chosenValid = false ∧ (s.cfg.vreq ≠ 0 → a.qrVer = s.cfg.vreq)) := by
  obtain ⟨hq, h0, hfit⟩ | ⟨hq, h0, hfits⟩ | ⟨hv, hb⟩ := h
  · obtain ⟨v, hsel, h40, hfits⟩ := exists_selectVersion hfit
    refine ⟨s.selectedVersion (BitVec.ofNat 6 v),
      makeOutcome_of_selVer hq (selVerOutcome_of_selected (.inl hq) h0 hsel), rfl, ?_, rfl,
      .inr ⟨hq, rfl, fun h => absurd h0 h⟩⟩
    rwa [canBuild_selectedVersion, toNat_ofNat_version h40]
  · exact ⟨s.selectedVersion s.cfg.vreq, makeOutcome_of_selVer hq (selVerOutcome_of_fixed (.inl hq) h0), rfl,
      canBuild_selectedVersion.mpr hfits, rfl, .inr ⟨hq, rfl, fun _ => rfl⟩⟩
  · exact ⟨s, rfl, hv, hb, rfl, .inl ⟨hv, rfl⟩⟩

/-- Settles O41: from a state with a version QR_MAKE fails only where the codewords cannot be built, and the
invariant holds of the symbol it finishes. -/
theorem qrMakeFinishesTheSymbol : Obligations.QrMakeFinishesTheSymbol := by
  refine ⟨fun s inv hmake => ?_, fun s hq h0 none => ?_, fun s hq h0 hfits => ?_, fun s hv hb => ?_⟩
  · obtain ⟨a, hsa, hva, hba, hcfga, hcase⟩ := hmake.versionState
    obtain ⟨c, hac, hc⟩ := exists_finished_of_canBuild hva hba
    have made : outcome .qrMake s = .ok (finished c) := hsa.trans hac
    have finv : (finished c).RegInv := inv.outcome made
    obtain ⟨hsize, htest, hcw⟩ := finv.final (finished_qrState c)
    obtain ⟨hver, hsize⟩ := finv.matrix_held hsize
    have undecided (hq : s.qrState = .dataAppended) : s.chosenValid = false := by
      cases hs : s.chosenValid with
      | false => rfl
      | true => exact absurd (inv.ver_chosen.mpr (.inr hq)) (inv.chosen_held hs)
    refine ⟨(finished c).succeed, by rw [exec_eq_complete, made, complete_ok], rfl, finished_qrState c,
      by simpa using hc.chosenValid, hcw, ?_, finv.ver_le, hsize, by simp, htest, finished_matrix c,
      by simpa using hc.cfg.trans hcfga, ?_⟩
    · exact Nat.pos_of_ne_zero fun h0 => hver (BitVec.eq_of_toNat_eq h0)
    · simp only [succeed_chosen, finished_chosen, succeed_qrVer, finished_qrVer]
      obtain ⟨hv, rfl⟩ | ⟨hq, ha, hvreq⟩ := hcase
      · exact ⟨hc.kept, hc.fixed, fun hq => absurd hq (ne_dataAppended_of_hasVersion hv), fun _ => hc.ver⟩
      · refine ⟨fun h => ?_, fun _ h7 => ?_, fun _ h => hc.ver.trans (hvreq h), fun hv => ?_⟩
        · simp [undecided hq] at h
        · exact hcfga ▸ hc.fixed ha (hcfga ▸ h7)
        · exact absurd hq (ne_dataAppended_of_hasVersion hv)
  · rw [exec_eq_complete, outcome, makeOutcome_of_dataAppended hq,
      selVerOutcome_of_none_selected (.inl hq) h0 (selectVersion_eq_none none), Except.bind, complete_error]
  · rw [exec_eq_complete, outcome, makeOutcome_of_selVer hq (selVerOutcome_of_fixed (.inl hq) h0),
      makeOutcome_of_not_canBuild rfl (canBuild_selectedVersion.not.mpr hfits), complete_error]
  · rw [exec_eq_complete, outcome, makeOutcome_of_not_canBuild hv hb, complete_error]

/-! ### Where a command ends with SequenceError (R221) -/

theorem resByte_eq_error {s : State} {r : Except ErrorCode Byte} {c : ErrorCode} :
    resByte s r = .error c ↔ r = .error c := by
  cases r <;> simp [resByte]

theorem resPoly_eq_error {s : State} {r : Except ErrorCode Poly} {c : ErrorCode} :
    resPoly s r = .error c ↔ r = .error c := by
  cases r <;> simp

theorem ifLegal_eq_sequenceError {b : Bool} {r : Except ErrorCode State} :
    ifLegal b r = .error .sequenceError ↔ b = true ∧ r = .error .sequenceError := by
  cases b <;> simp

theorem pmod_error {p d : Poly} {c : ErrorCode} (h : pmod p d = .error c) : c = .invalidArgument := by
  by_cases hd : denote d = 0
  · exact (Except.error.inj ((pmod_of_denote_eq_zero p hd).symm.trans h)).symm
  · simp [pmod_of_denote_ne_zero p hd] at h

theorem rsecc_ne_error (data : List Byte) (t : Nat) (c : ErrorCode) : rsecc data t ≠ .error c := by
  obtain ⟨e, -, he, -⟩ := exists_rsecc data t
  simp [he]

theorem appendBit_error {b : Bool} {s : State} {c : ErrorCode} (h : appendBit b s = .error c) :
    c = .bufferOverflow := by
  by_cases room : s.bbLen.toNat < 32768
  · obtain ⟨t, ht⟩ := appendBit_of_room b room
    simp [ht] at h
  · exact (Except.error.inj ((appendBit_of_full b (Nat.le_of_not_lt room)).symm.trans h)).symm

theorem bbPutOutcome_error {n : Nat} {s : State} {c : ErrorCode} (h : bbPutOutcome n s = .error c) :
    c = .bufferOverflow := by
  by_cases room : s.bbLen.toNat + n ≤ 32768
  · obtain ⟨t, ht⟩ := appendBits_of_room (bitsOf s.arg0.toNat n) (by rwa [length_bitsOf])
    simp [bbPutOutcome_of_room room, ht] at h
  · exact (Except.error.inj ((bbPutOutcome_of_no_room (Nat.lt_of_not_le room)).symm.trans h)).symm

theorem polyMulOutcome_error {s : State} {c : ErrorCode} (h : polyMulOutcome s = .error c) : c = .lengthError := by
  by_cases ok : polyLenOk s.paLen = true ∧ polyLenOk s.pbLen = true
  · rw [polyMulOutcome_of_lenOk ok.1 ok.2] at h
    split at h
    · exact (Except.error.inj h).symm
    · simp at h
  · rw [polyMulOutcome_of_bad_len (by simpa [imp_iff_not_or] using ok)] at h
    exact (Except.error.inj h).symm

theorem polyModOutcome_error {s : State} {c : ErrorCode} (h : polyModOutcome s = .error c) :
    c = .lengthError ∨ c = .invalidArgument := by
  by_cases ok : polyLenOk s.paLen = true ∧ polyLenOk s.pbLen = true
  · rw [polyModOutcome_of_lenOk ok.1 ok.2, resPoly_eq_error] at h
    exact .inr (pmod_error h)
  · rw [polyModOutcome_of_bad_len (by simpa [imp_iff_not_or] using ok)] at h
    exact .inl (Except.error.inj h).symm

/-- Outside the builder no command ends with SequenceError. -/
theorem outcome_ne_sequenceError {i : Instr} (s : State) (hb : writesBuild i = false)
    (hc : ∀ m e v, i ≠ .qrConfig m e v) (hp : i ≠ .qrPenalty) : outcome i s ≠ .error .sequenceError := by
  intro h
  cases i with
  | nop | gfMul | gfExp | rsGen | bbClear | crcInit | crcByte => simp [outcome] at h
  | gfDiv a b =>
    rw [outcome, resByte_eq_error, gfDiv] at h
    split at h <;> simp at h
  | gfInv b =>
    rw [outcome, resByte_eq_error, gfInv] at h
    split at h <;> simp at h
  | gfLog a =>
    rw [outcome, resByte_eq_error] at h
    split at h <;> simp at h
  | polyMul => exact absurd (polyMulOutcome_error h) (by simp)
  | polyMod => obtain h | h := polyModOutcome_error h <;> simp at h
  | rsEcc t =>
    rw [outcome, ifLegal_eq_sequenceError, rsEccOutcome] at h
    split at h
    · simp at h
    · exact rsecc_ne_error _ _ _ (resPoly_eq_error.mp h.2)
  | bbPut => exact absurd (bbPutOutcome_error (ifLegal_eq_sequenceError.mp h).2) (by simp)
  | bbPutBit => exact absurd (appendBit_error (ifLegal_eq_sequenceError.mp h).2) (by simp)
  | qrConfig m e v => exact hc m e v rfl
  | qrPenalty => exact hp rfl
  | qrFmtBch | qrVerBch | tblQuery | tblAlign => simp [outcome, ifLegal_eq_sequenceError] at h
  | crcBuf =>
    rw [outcome, crcBufOutcome] at h
    split at h <;> simp at h
  | qrClear | qrAppend | qrSelVer | qrCodewords | qrLayout | qrMaskSel | qrFinal | qrMake => simp [writesBuild] at hb

/-- A command that fails with SequenceError in the states of the table's SE, and in the others never, does so exactly
there. -/
theorem eq_sequenceError_iff {r : Except ErrorCode State} {admitted : Prop}
    (closed : ¬admitted → r = .error .sequenceError)
    (other : ∀ c, admitted → r = .error c → c ≠ .sequenceError) : r = .error .sequenceError ↔ ¬admitted :=
  ⟨fun h ha => other _ ha h rfl, closed⟩

theorem configOutcome_eq_sequenceError {m e v : Byte} {s : State} :
    configOutcome m e v s = .error .sequenceError ↔ ¬(s.qrState = .empty ∨ s.qrState = .dataAppended) :=
  eq_sequenceError_iff configOutcome_of_closed fun c hq h => by simp [configOutcome_of_open hq] at h

theorem appendOutcome_eq_sequenceError {s : State} :
    appendOutcome s = .error .sequenceError ↔ s.qrState = .matrixFinal := by
  rw [← Decidable.not_not (p := s.qrState = .matrixFinal)]
  refine eq_sequenceError_iff (fun hq => appendOutcome_of_matrixFinal (Decidable.not_not.mp hq)) fun c hq h => ?_
  cases hr : inbufRangeOk s.arg0 s.arg1 with
  | false =>
    rw [appendOutcome_of_bad_range hq hr] at h
    simp [← Except.error.inj h]
  | true =>
    by_cases room : s.segCount.toNat < 8
    · simp [appendOutcome_of_room hq hr room] at h
    · rw [appendOutcome_of_full hq hr (Nat.le_of_not_lt room)] at h
      simp [← Except.error.inj h]

theorem selVerOutcome_eq_sequenceError {s : State} : selVerOutcome s = .error .sequenceError ↔
    ¬(s.qrState = .dataAppended ∨ s.qrState.hasVersion = true) :=
  eq_sequenceError_iff selVerOutcome_of_closed fun c hq h => by simp [selVerOutcome_error hq h]

theorem codewordsOutcome_eq_sequenceError {s : State} :
    codewordsOutcome s = .error .sequenceError ↔ ¬s.qrState.hasVersion = true := by
  refine eq_sequenceError_iff (fun hv => if_neg hv) fun c hv h => ?_
  rw [codewordsOutcome_of_hasVersion hv] at h
  simp [buildCodewords_error h]

theorem layoutOutcome_eq_sequenceError {test : Bool} {mask : BitVec 3} {s : State} :
    layoutOutcome test mask s = .error .sequenceError ↔ ¬s.qrState.hasVersion = true := by
  refine eq_sequenceError_iff (fun hv => if_neg hv) fun c hv h => ?_
  by_cases hb : s.canBuild
  · obtain ⟨t, ht⟩ := ensureCw_of_canBuild hb
    simp [layoutOutcome_of_ensureCw test mask hv ht] at h
  · rw [layoutOutcome_of_not_canBuild test mask hv hb] at h
    simp [← Except.error.inj h]

theorem maskSelOutcome_eq_sequenceError {s : State} :
    maskSelOutcome s = .error .sequenceError ↔ ¬s.qrState.hasVersion = true := by
  refine eq_sequenceError_iff (fun hv => if_neg hv) fun c hv h => ?_
  by_cases h8 : s.cfg.mreq = 8
  · by_cases hb : s.canBuild
    · obtain ⟨t, ht⟩ := ensureCw_of_canBuild hb
      simp [maskSelOutcome_of_auto hv h8 ht] at h
    · rw [maskSelOutcome_of_not_canBuild hv h8 hb] at h
      simp [← Except.error.inj h]
  · simp [maskSelOutcome_of_fixed hv h8] at h

theorem finalOutcome_eq_sequenceError {s : State} : finalOutcome s = .error .sequenceError ↔
    ¬(s.qrState.hasVersion = true ∧ s.chosenValid = true) := by
  refine eq_sequenceError_iff (fun hv => if_neg (by simpa using hv)) fun c ⟨hv, hc⟩ h => ?_
  by_cases hb : s.canBuild
  · obtain ⟨t, ht⟩ := ensureCw_of_canBuild hb
    simp [finalOutcome_of_ensureCw hv hc ht] at h
  · rw [finalOutcome_of_not_canBuild hv hc hb] at h
    simp [← Except.error.inj h]

theorem makeOutcome_of_closed {s : State} (hq : ¬(s.qrState = .dataAppended ∨ s.qrState.hasVersion = true)) :
    makeOutcome s = .error .sequenceError := if_neg hq

/-- The one error of QR_MAKE from a state with a version. -/
theorem makeOutcome_error {s : State} {c : ErrorCode} (hv : s.qrState.hasVersion = true)
    (h : makeOutcome s = .error c) : c = .codeLengthOverflow := by
  by_cases hb : s.canBuild
  · obtain ⟨u, hu, -⟩ := exists_finished_of_canBuild hv hb
    simp [hu] at h
  · exact (Except.error.inj ((makeOutcome_of_not_canBuild hv hb).symm.trans h)).symm

theorem makeOutcome_eq_sequenceError {s : State} : makeOutcome s = .error .sequenceError ↔
    ¬(s.qrState = .dataAppended ∨ s.qrState.hasVersion = true) := by
  refine eq_sequenceError_iff makeOutcome_of_closed fun c hq h => ?_
  obtain hq | hv := hq
  · cases ha : selVerOutcome s with
    | error c' =>
      rw [makeOutcome_of_dataAppended hq, ha, selVerOutcome_error (.inl hq) ha] at h
      simp [← Except.error.inj h]
    | ok a =>
      rw [makeOutcome_of_selVer hq ha] at h
      simp [makeOutcome_error (selVerOutcome_kept ha).1 h]
  · simp [makeOutcome_error hv h]

theorem penaltyOutcome_eq_sequenceError {s : State} : penaltyOutcome s = .error .sequenceError ↔ s.qrSize = 0 := by
  simp [penaltyOutcome]

/-! ### The state table (R221) -/

@[simp] theorem rowNext_eq_none {l : List QrState} {n q : QrState} : rowNext l n q = none ↔ q ∉ l := by
  simp [rowNext]

theorem rowNext_of_mem {l : List QrState} {n q : QrState} (h : q ∈ l) : rowNext l n q = some n := if_pos h

@[simp] theorem mem_versionStates {q : QrState} : q ∈ versionStates ↔ q.hasVersion = true := by
  cases q <;> decide

/-- QR_APPEND's row of the table has one SE. -/
theorem builderNext_qrAppend_eq_none {q : QrState} : builderNext .qrAppend q = none ↔ q = .matrixFinal := by
  cases q <;> decide

/-- A command with legal fields ends with SequenceError exactly where the state table, or the two conditions beside
it, say so (R221). -/
theorem outcome_eq_sequenceError {i : Instr} {s : State} (hwf : i.wellFormed = true) :
    outcome i s = .error .sequenceError ↔ builderNext i s.qrState = none ∨
      (i = .qrFinal ∧ s.chosenValid = false) ∨ (i = .qrPenalty ∧ s.qrSize = 0) := by
  cases i with
  | qrClear => simp [outcome, clearOutcome, builderNext]
  | qrConfig m e v =>
    simp only [Instr.wellFormed, Bool.and_eq_true, decide_eq_true_eq] at hwf
    obtain ⟨⟨hm, he⟩, hv⟩ := hwf
    simp [outcome_qrConfig s hm he hv, configOutcome_eq_sequenceError, builderNext]
  | qrAppend => simp [outcome, appendOutcome_eq_sequenceError, builderNext_qrAppend_eq_none]
  | qrSelVer => simp [outcome, selVerOutcome_eq_sequenceError, builderNext]
  | qrCodewords => simp [outcome, codewordsOutcome_eq_sequenceError, builderNext]
  | qrLayout test mask =>
    simp only [Instr.wellFormed, Bool.and_eq_true, decide_eq_true_eq] at hwf
    have legal : (fieldIn 0 1 test && fieldIn 0 7 mask) = true := by simp [fieldIn, hwf]
    simp [outcome, legal, layoutOutcome_eq_sequenceError, builderNext]
  | qrPenalty => simp [outcome, penaltyOutcome_eq_sequenceError, builderNext]
  | qrMaskSel => simp [outcome, maskSelOutcome_eq_sequenceError, builderNext]
  | qrFinal => simp [outcome, finalOutcome_eq_sequenceError, builderNext, ← Bool.not_eq_true, imp_iff_not_or]
  | qrMake => simp [outcome, makeOutcome_eq_sequenceError, builderNext]
  | _ => simpa [builderNext] using outcome_ne_sequenceError s rfl (by simp) (by simp)

/-- Where a command succeeds, the state after it is the table's (R221). -/
theorem builderNext_of_outcome_ok {i : Instr} {s t : State} (h : outcome i s = .ok t) :
    builderNext i s.qrState = some t.qrState := by
  cases i with
  | qrClear => exact Except.ok.inj h ▸ rfl
  | qrConfig m e v =>
    obtain ⟨hq, rfl⟩ := configOutcome_ok (ifLegal_ok h).2
    exact rowNext_of_mem (by simpa using hq)
  | qrAppend =>
    obtain ⟨hq, -, -, rfl⟩ := appendOutcome_ok h
    exact rowNext_of_mem (Decidable.not_not.mp fun h => hq (builderNext_qrAppend_eq_none.mp (rowNext_eq_none.mpr h)))
  | qrSelVer =>
    obtain ⟨hq, ⟨-, v, -, rfl⟩ | ⟨-, rfl⟩⟩ := selVerOutcome_ok h <;> exact rowNext_of_mem (by simpa using hq)
  | qrCodewords =>
    obtain ⟨hv, hb⟩ := codewordsOutcome_ok h
    obtain ⟨d, c, -, -, rfl⟩ := buildCodewords_ok hb
    exact rowNext_of_mem (mem_versionStates.mpr hv)
  | qrLayout test mask =>
    obtain ⟨hv, u, -, rfl⟩ := layoutOutcome_ok (ifLegal_ok h).2
    rw [setQrState_qrState, builderNext, rowNext_of_mem (mem_versionStates.mpr hv)]
    simp
  | qrMaskSel => exact (maskSelOutcome_kept h).1 ▸ rowNext_of_mem (mem_versionStates.mpr (maskSelOutcome_ok h).1)
  | qrFinal =>
    obtain ⟨hv, -, u, -, rfl⟩ := finalOutcome_ok h
    exact rowNext_of_mem (mem_versionStates.mpr hv)
  | qrMake =>
    obtain ⟨hq, -, -, c, -, -, -, hfinal⟩ := makeOutcome_ok h
    obtain ⟨-, -, u, -, rfl⟩ := finalOutcome_ok hfinal
    exact rowNext_of_mem (by simpa using hq)
  | _ => exact congrArg some ((keeps_outcome h).build rfl).2.2.2.symm

theorem errorNumber_eq_six {c : ErrorCode} : errorNumber c = 6 ↔ c = .sequenceError := by
  cases c <;> decide

/-- Settles O28: a command's completion records the error number 6 for SequenceError only. -/
theorem builderStateTable : Obligations.BuilderStateTable := by
  intro i s t hwf h
  rw [← outcome_eq_sequenceError hwf]
  obtain ⟨u, hu, rfl⟩ | ⟨c, hc, rfl⟩ := exec_next h
  · exact ⟨by simp [hu], by simp, fun _ => by rw [succeed_qrState, builderNext_of_outcome_ok hu]⟩
  · simp only [hc, fail_errCode, errorNumber_eq_six, Except.error.injEq]
    exact ⟨trivial, fun h => h ▸ rfl, by simp⟩

end Sys2Proof.Machine

/-! ## QR_LAYOUT (spec/45_matrix_layout.md R260, R273, R285) -/

namespace Sys2Proof.Machine

/-- The codewords a layout command uses are those the codeword cache holds once it is ensured (R238). -/
theorem layoutCodewords_of_ensureCw {s u : State} (hv : s.qrState.hasVersion = true) (hu : ensureCw s = .ok u) :
    s.layoutCodewords = u.codewords := by
  obtain ⟨hcw, rfl⟩ | ⟨hcw, hb⟩ := ensureCw_ok hu
  · simp [State.layoutCodewords, hcw]
  · have built : exec .qrCodewords s = .next u.succeed := by
      rw [exec_eq_complete, outcome, codewordsOutcome_of_hasVersion hv, hb, complete_ok]
    simp only [State.layoutCodewords, hcw, Bool.false_eq_true, if_false, built]
    rfl

theorem outcome_qrLayout {test mask : Byte} (s : State) (ht : test.toNat ≤ 1) (hm : mask.toNat ≤ 7) :
    outcome (.qrLayout test mask) s = layoutOutcome (test == 1) (mask.setWidth 3) s := by
  simp [outcome, fieldIn, ht, hm]

/-- A layout leaves the codewords it was made of (R273). -/
theorem codewords_layOut (u : State) (mask : BitVec 3) (test : Bool) :
    (u.layOut mask test).codewords = u.codewords := rfl

theorem toNat_qrSize_layOut {u : State} (hv : u.qrVer.toNat ≤ 40) (mask : BitVec 3) (test : Bool) :
    (u.layOut mask test).qrSize.toNat = moduleCount u.qrVer.toNat := by
  show (BitVec.ofNat 8 _).toNat = _
  rw [BitVec.toNat_ofNat, moduleCount]
  omega

/-- Settles O35: the layout is made of the codewords held or built, from a version, level and mask that do not depend
on the test flag. -/
theorem qrLayoutPutsTheMatrix : Obligations.QrLayoutPutsTheMatrix := by
  refine ⟨fun test mask s hr hv hb ht hm => ?_, fun test mask s hv hb ht hm => ?_⟩
  · obtain ⟨u, hu⟩ := ensureCw_of_canBuild hb
    obtain ⟨hcw, -, hver⟩ := ensureCw_kept hu
    obtain ⟨hcfg, hchosen, hvalid⟩ := ensureCw_choice hu
    refine ⟨((u.layOut (mask.setWidth 3) (test == 1)).setQrState
      (if test == 1 then .matrixLaidOut else .matrixFinal)).succeed, ?_, rfl, ?_⟩
    · rw [exec_eq_complete, outcome_qrLayout s ht hm, layoutOutcome_of_ensureCw _ _ hv hu, complete_ok]
    rw [layoutCodewords_of_ensureCw hv hu, ← hver, ← hcfg]
    refine ⟨rfl, toNat_qrSize_layOut (hver ▸ hr.ver_le) (mask.setWidth 3) (test == 1), ?_, rfl, ?_, hcw,
      codewords_layOut u (mask.setWidth 3) (test == 1), hchosen, hvalid⟩
    · show (mask.setWidth 3).toNat = _
      rw [BitVec.toNat_setWidth]
      omega
    · simp
  · rw [exec_eq_complete, outcome_qrLayout s ht hm, layoutOutcome_of_not_canBuild _ _ hv hb, complete_error]

/-- Settles O42: the timing pattern resolves column 6, and the data mapping visits the rest. -/
theorem layoutResolvesEveryCell : Obligations.LayoutResolvesEveryCell :=
  fun v e m c _ _ => ⟨layout_resolved v e m c, fun _ hr => functionPatterns_column6 e m hr,
    fun _ _ hr hk h6 => mem_zigzag hr hk h6⟩

end Sys2Proof.Machine

/-! ## The BCH words (spec/45_matrix_layout.md R265, R268, R274, R275) -/

namespace Sys2Proof.Machine

/-! ### Binary polynomials: numbers as sums of powers of two (R265, R268) -/

theorem numBits_le_iff {x k : Nat} : numBits x ≤ k ↔ x < 2 ^ k := by
  unfold numBits
  split
  · simp [*]
  · rw [Nat.succ_le_iff, Nat.log2_lt ‹_›]

theorem numBits_pos {x : Nat} (h : x ≠ 0) : 0 < numBits x :=
  Nat.pos_of_ne_zero fun h0 => h (Nat.lt_one_iff.mp (numBits_le_iff.mp h0.le))

/-- The highest bit of a number is set. -/
theorem testBit_numBits_sub_one {x : Nat} (h : x ≠ 0) : x.testBit (numBits x - 1) = true := by
  rw [numBits, if_neg h, Nat.add_sub_cancel]
  exact Nat.testBit_log2 h

theorem testBit_of_numBits_le {x i : Nat} (h : numBits x ≤ i) : x.testBit i = false :=
  Nat.testBit_lt_two_pow (numBits_le_iff.mp h)

/-- The divisor, shifted so that the highest bits agree, cancels the highest bit (R265). -/
theorem numBits_xor_shiftLeft_lt {g d : Nat} (hg : g ≠ 0) (h : numBits g ≤ numBits d) :
    numBits (d ^^^ (g <<< (numBits d - numBits g))) < numBits d := by
  have hpos := numBits_pos hg
  have hd : d ≠ 0 := by rintro rfl; exact absurd h (not_le.mpr hpos)
  refine Nat.lt_of_le_pred (hpos.trans_le h) (numBits_le_iff.mpr (Nat.lt_pow_two_of_testBit _ fun i hi => ?_))
  rw [Nat.testBit_xor, Nat.testBit_shiftLeft]
  obtain rfl | hi := (show numBits d - 1 ≤ i from hi).eq_or_lt
  · rw [testBit_numBits_sub_one hd, show numBits d - 1 - (numBits d - numBits g) = numBits g - 1 by omega,
      testBit_numBits_sub_one hg, decide_eq_true (show numBits d - 1 ≥ numBits d - numBits g by omega)]
    rfl
  · rw [testBit_of_numBits_le (x := d) (by omega), testBit_of_numBits_le (x := g) (by omega)]
    simp

/-- Adding a number where a bit is set is additive in the bit and in the number added to. -/
theorem ite_testBit_xor (a b k p q x : Nat) : (if (a ^^^ b).testBit k then p ^^^ q ^^^ x else p ^^^ q) =
    (if a.testBit k then p ^^^ x else p) ^^^ (if b.testBit k then q ^^^ x else q) := by
  rw [Nat.testBit_xor]
  cases a.testBit k <;> cases b.testBit k
  · rfl
  · simp [Nat.xor_assoc]
  · simp [Nat.xor_assoc, Nat.xor_comm q]
  · have cancel : p ^^^ x ^^^ (q ^^^ x) = p ^^^ q ^^^ (x ^^^ x) := by ac_rfl
    simp [cancel]

theorem binaryProduct_xor (g a b : Nat) : binaryProduct g (a ^^^ b) = binaryProduct g a ^^^ binaryProduct g b := by
  have additive := List.foldl_hom₂ (List.range 8) (fun p q : Nat => p ^^^ q)
    (fun p k => if a.testBit k then p ^^^ (g <<< k) else p) (fun q k => if b.testBit k then q ^^^ (g <<< k) else q)
    (fun p k => if (a ^^^ b).testBit k then p ^^^ (g <<< k) else p) 0 0
    fun p q k => (ite_testBit_xor a b k p q (g <<< k)).symm
  rwa [Nat.xor_self] at additive

theorem binaryProduct_two_pow (g : Nat) {k : Nat} (hk : k < 8) : binaryProduct g (2 ^ k) = g <<< k := by
  simp only [binaryProduct, Nat.testBit_two_pow, decide_eq_true_eq]
  interval_cases k <;> simp [List.range_succ]

/-- The shift-reduce loop leaves a remainder: what it takes off is a multiple of the divisor (R265). -/
theorem exists_quotient_bchReduce {g : Nat} (hg : g ≠ 0) {fuel d : Nat} (hf : numBits d ≤ fuel)
    (hd : numBits d < numBits g + 8) : ∃ q, q < 2 ^ (numBits d + 1 - numBits g) ∧
      binaryProduct g q = d ^^^ bchReduce g fuel d ∧ numBits (bchReduce g fuel d) < numBits g := by
  induction fuel generalizing d with
  | zero => exact ⟨0, Nat.two_pow_pos _, by simp [bchReduce, binaryProduct], hf.trans_lt (numBits_pos hg)⟩
  | succ fuel ih =>
    rw [bchReduce]
    split
    · rename_i h
      have shorter := numBits_xor_shiftLeft_lt hg h
      obtain ⟨q, hq, hprod, hrem⟩ := ih (d := d ^^^ (g <<< (numBits d - numBits g))) (by omega) (by omega)
      refine ⟨q ^^^ 2 ^ (numBits d - numBits g), Nat.xor_lt_two_pow ?_ ?_, ?_, hrem⟩
      · exact hq.trans_le (Nat.pow_le_pow_right (by decide) (by omega))
      · exact Nat.pow_lt_pow_right (by decide) (by omega)
      · rw [binaryProduct_xor, hprod, binaryProduct_two_pow g (by omega), Nat.xor_right_comm,
          Nat.xor_xor_cancel_right]
    · exact ⟨0, Nat.two_pow_pos _, by simp [binaryProduct], by omega⟩

theorem shiftLeft_or_eq_xor {a r t : Nat} (hr : r < 2 ^ t) : a <<< t ||| r = a <<< t ^^^ r := by
  refine Nat.eq_of_testBit_eq fun i => ?_
  rw [Nat.testBit_or, Nat.testBit_xor, Nat.testBit_shiftLeft]
  obtain hi | hi := Nat.lt_or_ge i t
  · simp [Nat.not_le.mpr hi]
  · simp [Nat.testBit_lt_two_pow (hr.trans_le (Nat.pow_le_pow_right (by decide) hi))]

theorem shiftLeft_or_div {a r t : Nat} (hr : r < 2 ^ t) : (a <<< t ||| r) / 2 ^ t = a := by
  rw [← Nat.shiftLeft_add_eq_or_of_lt hr, Nat.shiftLeft_eq, Nat.mul_comm, Nat.mul_add_div (Nat.two_pow_pos t),
    Nat.div_eq_of_lt hr, Nat.add_zero]

/-- A word of data on top of the remainder: the data are its high bits, and it is a multiple of the divisor (R265,
R268). -/
theorem bchReduce_codeword {g t data k : Nat} (hg : numBits g = t + 1) (hdata : data < 2 ^ k) (hk : k ≤ 7) :
    (data <<< t ||| bchReduce g (numBits (data <<< t)) (data <<< t)) / 2 ^ t = data ∧
      ∃ q, q < 2 ^ k ∧ binaryProduct g q = data <<< t ||| bchReduce g (numBits (data <<< t)) (data <<< t) := by
  have bits : numBits (data <<< t) ≤ k + t := by
    rw [numBits_le_iff, Nat.shiftLeft_eq, Nat.pow_add]
    exact Nat.mul_lt_mul_of_pos_right hdata (Nat.two_pow_pos t)
  have hg0 : g ≠ 0 := by rintro rfl; exact absurd hg (by simp [numBits])
  obtain ⟨q, hq, hprod, hrem⟩ := exists_quotient_bchReduce hg0 (Nat.le_refl (numBits (data <<< t))) (by omega)
  have rem : bchReduce g (numBits (data <<< t)) (data <<< t) < 2 ^ t := numBits_le_iff.mp (by omega)
  refine ⟨shiftLeft_or_div rem, q, hq.trans_le (Nat.pow_le_pow_right (by decide) (by omega)), ?_⟩
  rw [hprod, shiftLeft_or_eq_xor rem]

/-- Without its mask a format word is a multiple of G15 under its five data bits (R265). -/
theorem bchFormat_codeword (e : BitVec 2) (m : BitVec 3) :
    (bchFormat e m ^^^ 0x5412) / 1024 = 8 * e.toNat + m.toNat ∧
      ∃ q, q < 32 ∧ binaryProduct 0x537 q = bchFormat e m ^^^ 0x5412 := by
  have data : e.toNat <<< 3 ||| m.toNat = 8 * e.toNat + m.toNat := by
    rw [← Nat.shiftLeft_add_eq_or_of_lt m.isLt, Nat.shiftLeft_eq, Nat.mul_comm]
  have small : 8 * e.toNat + m.toNat < 2 ^ 5 := by omega
  rw [bchFormat, data, Nat.xor_xor_cancel_right]
  exact bchReduce_codeword (g := 0x537) (t := 10) rfl small (by decide)

/-- A version word is a multiple of G18 under its six data bits (R268). -/
theorem bchVersion_codeword {v : Nat} (hv : v < 64) :
    bchVersion v / 4096 = v ∧ ∃ q, q < 64 ∧ binaryProduct 0x1F25 q = bchVersion v :=
  bchReduce_codeword (g := 0x1F25) (t := 12) (k := 6) rfl hv (by decide)

theorem bchFormat_lt (e : BitVec 2) (m : BitVec 3) : bchFormat e m < 2 ^ 15 := by
  obtain ⟨data, -⟩ := bchFormat_codeword e m
  have unmasked : bchFormat e m ^^^ 0x5412 < 2 ^ 15 := by omega
  simpa using Nat.xor_lt_two_pow unmasked (show 0x5412 < 2 ^ 15 by decide)

theorem outcome_qrFmtBch {ecc mask : Byte} (s : State) (he : ecc.toNat ≤ 3) (hm : mask.toNat ≤ 7) :
    outcome (.qrFmtBch ecc mask) s =
      .ok (s.setRes0 (BitVec.ofNat 32 (bchFormat (ecc.setWidth 2) (mask.setWidth 3)))) := by
  simp [outcome, fieldIn, he, hm]

theorem outcome_qrVerBch {ver : Byte} (s : State) (hv : ver.toNat ≤ 63) :
    outcome (.qrVerBch ver) s = .ok (s.setRes0 (BitVec.ofNat 32 (bchVersion ver.toNat))) := by
  simp [outcome, fieldIn, hv]

/-- Settles O23: the loop of either command leaves the remainder of the shifted data bits, so that the word is a
multiple of the divisor. -/
theorem bchCommandsGiveCodewords : Obligations.BchCommandsGiveCodewords := by
  refine ⟨fun ecc mask s he hm => ⟨BitVec.ofNat 32 (bchFormat (ecc.setWidth 2) (mask.setWidth 3)), ?_⟩,
    fun ver s hv => ⟨BitVec.ofNat 32 (bchVersion ver.toNat), ?_⟩⟩
  · have small := bchFormat_lt (ecc.setWidth 2) (mask.setWidth 3)
    obtain ⟨data, multiple⟩ := bchFormat_codeword (ecc.setWidth 2) (mask.setWidth 3)
    rw [exec_eq_complete, outcome_qrFmtBch s he hm, complete_ok, BitVec.toNat_ofNat, Nat.mod_eq_of_lt (by omega), data,
      BitVec.toNat_setWidth, BitVec.toNat_setWidth]
    exact ⟨rfl, by omega, multiple⟩
  · obtain ⟨data, multiple⟩ := bchVersion_codeword (Nat.lt_succ_of_le hv)
    rw [exec_eq_complete, outcome_qrVerBch s hv, complete_ok, BitVec.toNat_ofNat, Nat.mod_eq_of_lt (by omega)]
    exact ⟨rfl, data, multiple⟩

end Sys2Proof.Machine

/-! ## The data mapping (spec/45_matrix_layout.md R270, R271) -/

namespace Sys2Proof.Machine

/-! ### The zigzag visits no cell twice (R270) -/

/-- The cells of one column pair in the order of R270. -/
def pairCells (n : Nat) (q : Nat × Bool) : List (Nat × Nat) :=
  (if q.2 then (List.range n).reverse else List.range n).flatMap (fun r => [(r, q.1), (r, q.1 - 1)])

theorem zigzag_eq (n : Nat) : zigzag n = (zigzagColumns n (n - 1) true).flatMap (pairCells n) := rfl

theorem mem_pairCells {n : Nat} {q : Nat × Bool} {r c : Nat} :
    (r, c) ∈ pairCells n q ↔ r < n ∧ (c = q.1 ∨ c = q.1 - 1) := by
  have rows : ∀ i, i ∈ (if q.2 then (List.range n).reverse else List.range n) ↔ i < n := by
    cases q.2 <;> simp
  simp only [pairCells, List.mem_flatMap, rows, List.mem_cons, List.not_mem_nil, or_false, Prod.mk.injEq]
  constructor
  · rintro ⟨i, hi, ⟨rfl, hc⟩ | ⟨rfl, hc⟩⟩
    · exact ⟨hi, .inl hc⟩
    · exact ⟨hi, .inr hc⟩
  · rintro ⟨hr, hc⟩
    exact ⟨r, hr, hc.imp (⟨rfl, ·⟩) (⟨rfl, ·⟩)⟩

theorem nodup_pairCells (n : Nat) {q : Nat × Bool} (hq : 1 ≤ q.1) : (pairCells n q).Nodup := by
  have rows : (if q.2 then (List.range n).reverse else List.range n).Nodup := by
    split
    · exact List.nodup_reverse.mpr List.nodup_range
    · exact List.nodup_range
  refine List.nodup_flatMap.mpr ⟨fun r _ => ?_, rows.imp fun {r r'} hne => ?_⟩
  · simp; omega
  · simp [Function.onFun, hne.symm]

/-- The columns of the pairs lie between 1 and the column they begin at. -/
theorem zigzagColumns_range {fuel col : Nat} {up : Bool} {q : Nat × Bool} (h : q ∈ zigzagColumns fuel col up) :
    1 ≤ q.1 ∧ q.1 ≤ col := by
  induction fuel generalizing col up with
  | zero => simp [zigzagColumns] at h
  | succ fuel ih =>
    rw [zigzagColumns] at h
    split at h
    · simp at h
    · obtain rfl | h := List.mem_cons.mp h
      · show 1 ≤ (if col = 6 then 5 else col) ∧ (if col = 6 then 5 else col) ≤ col
        split <;> omega
      · have := ih h
        split at this <;> omega

/-- Each pair lies at least two columns to the left of those before it. -/
theorem zigzagColumns_pairwise (fuel col : Nat) (up : Bool) :
    (zigzagColumns fuel col up).Pairwise (fun p q => q.1 + 2 ≤ p.1) := by
  induction fuel generalizing col up with
  | zero => exact .nil
  | succ fuel ih =>
    rw [zigzagColumns]
    split
    · exact .nil
    · refine .cons (fun q hq => ?_) (ih _ _)
      have := zigzagColumns_range hq
      omega

theorem nodup_zigzag (n : Nat) : (zigzag n).Nodup := by
  rw [zigzag_eq]
  refine List.nodup_flatMap.mpr ⟨fun q hq => nodup_pairCells n (zigzagColumns_range hq).1, ?_⟩
  refine (zigzagColumns_pairwise n (n - 1) true).imp_of_mem fun {p q} hp hq hpq => ?_
  rintro ⟨r, c⟩ hcp hcq
  have hcp := (mem_pairCells (n := n)).mp hcp
  have hcq := (mem_pairCells (n := n)).mp hcq
  have := (zigzagColumns_range hq).1
  omega

theorem inside_of_mem_zigzag {n r c : Nat} (h : (r, c) ∈ zigzag n) : r < n ∧ c < n := by
  obtain ⟨q, hq, hc⟩ := List.mem_flatMap.mp h
  have range := zigzagColumns_range hq
  obtain ⟨hr, hc⟩ := mem_pairCells.mp hc
  omega

/-! ### Data bits in the visited cells (R270, R271) -/

theorem mapCell_of_unset {m : BitVec 3} {g : Grid} {bits : List Bool} {r c : Nat} (h : Grid.get g r c = .unset) :
    mapCell m (g, bits) (r, c) =
      (Grid.set g r c (cellOf (bits.headD false ^^ maskFn m r c)), bits.tail) := if_pos h

theorem mapCell_of_ne_unset {m : BitVec 3} {st : Grid × List Bool} {r c : Nat} (h : Grid.get st.1 r c ≠ .unset) :
    mapCell m st (r, c) = st := if_neg h

/-- A visit keeps the cells that are set. -/
theorem get_mapCell_of_ne_unset (m : BitVec 3) {st : Grid × List Bool} (cell : Nat × Nat) {r c : Nat}
    (h : Grid.get st.1 r c ≠ .unset) : Grid.get (mapCell m st cell).1 r c = Grid.get st.1 r c := by
  unfold mapCell
  split
  · rename_i hu
    exact Grid.get_set_other _ _ (not_and_or.mp fun ⟨hr, hc⟩ => h (hr ▸ hc ▸ hu))
  · rfl

theorem get_foldl_mapCell_of_ne_unset (m : BitVec 3) (l : List (Nat × Nat)) {st : Grid × List Bool} {r c : Nat}
    (h : Grid.get st.1 r c ≠ .unset) : Grid.get (l.foldl (mapCell m) st).1 r c = Grid.get st.1 r c := by
  induction l generalizing st with
  | nil => rfl
  | cons x l ih =>
    have kept := get_mapCell_of_ne_unset m x h
    rw [List.foldl_cons, ih (kept ▸ h), kept]

/-- The cells of a walk that a matrix leaves unset, in the walk's order. -/
def unsetCells (g : Grid) (l : List (Nat × Nat)) : List (Nat × Nat) :=
  l.filter (fun p => decide (Grid.get g p.1 p.2 = .unset))

/-- The `k`-th unset cell of the walk takes bit `k`, or 0 when there is none, flipped where the mask says so. -/
theorem get_foldl_mapCell {n : Nat} (m : BitVec 3) {l : List (Nat × Nat)} (hnd : l.Nodup)
    (hin : ∀ p ∈ l, p.1 < n ∧ p.2 < n) {g : Grid} (hg : Grid.square n g) (bits : List Bool) {k r j : Nat}
    (hk : (unsetCells g l)[k]? = some (r, j)) :
    Grid.get (l.foldl (mapCell m) (g, bits)).1 r j = cellOf (bits.getD k false ^^ maskFn m r j) := by
  induction l generalizing g bits k with
  | nil => simp [unsetCells] at hk
  | cons x l ih =>
    obtain ⟨hx, hnd⟩ := List.nodup_cons.mp hnd
    obtain ⟨hinx, hin⟩ := List.forall_mem_cons.mp hin
    by_cases hu : Grid.get g x.1 x.2 = .unset
    · have others : unsetCells (Grid.set g x.1 x.2 (cellOf (bits.headD false ^^ maskFn m x.1 x.2))) l =
          unsetCells g l := by
        refine List.filter_congr fun p hp => ?_
        rw [Grid.get_set_other _ _ (not_and_or.mp fun ⟨hr, hc⟩ => hx (Prod.ext hr hc ▸ hp))]
      have visited : unsetCells g (x :: l) = x :: unsetCells g l := List.filter_cons_of_pos (by simpa using hu)
      rw [visited] at hk
      rw [List.foldl_cons, mapCell_of_unset hu]
      cases k with
      | zero =>
        obtain rfl : x = (r, j) := by simpa using hk
        rw [get_foldl_mapCell_of_ne_unset, Grid.get_set_square hg hinx.1 hinx.2]
        · cases bits <;> rfl
        · rw [Grid.get_set_square hg hinx.1 hinx.2]
          exact cellOf_ne_unset _
      | succ k =>
        rw [ih hnd hin (Grid.square_set hg _ _ _) bits.tail (by rw [others]; simpa using hk)]
        cases bits <;> simp
    · have visited : unsetCells g (x :: l) = unsetCells g l := List.filter_cons_of_neg (by simpa using hu)
      rw [List.foldl_cons, mapCell_of_ne_unset (st := (g, bits)) hu]
      exact ih hnd hin hg bits (visited ▸ hk)

/-- The layout keeps what the function patterns have set (R271). -/
theorem get_layout_of_ne_unset {v : Nat} {e : BitVec 2} {m : BitVec 3} (cs : List Byte) {r j : Nat}
    (h : Grid.get (functionPatterns v e m) r j ≠ .unset) :
    Grid.get (layout v e m cs) r j = Grid.get (functionPatterns v e m) r j :=
  get_foldl_mapCell_of_ne_unset m (zigzag (moduleCount v)) h

/-- Settles O45: the zigzag visits no cell twice, so each unset cell takes one bit, in order, and keeps it. -/
theorem dataCellsCarryTheCodewords : Obligations.DataCellsCarryTheCodewords := by
  refine fun v e m c _ _ => ⟨fun k r j hk => ?_, fun r j _ _ h => get_layout_of_ne_unset c h⟩
  exact get_foldl_mapCell m (nodup_zigzag _) (fun p hp => inside_of_mem_zigzag hp) (square_functionPatterns v e m)
    (bytesToBits c) hk

end Sys2Proof.Machine

/-! ## What stands in a layout (spec/45_matrix_layout.md R262-R264, R266, R267, R269) -/

namespace Sys2Proof.Machine

theorem moduleCount_ge {v : Nat} (h1 : 1 ≤ v) : 21 ≤ moduleCount v := by
  simp only [moduleCount]
  omega

/-! ### Walks and single cells -/

section
variable {α : Type} {n : Nat} {f : Grid → α → Grid} {l : List α}
  (square : ∀ g x, Grid.square n g → Grid.square n (f g x))
include square

/-- What every visit keeps, the walk keeps. -/
theorem Grid.foldl_keeps {Q : Grid → Prop} (keeps : ∀ x ∈ l, ∀ g, Grid.square n g → Q g → Q (f g x)) {g : Grid}
    (hg : Grid.square n g) (h : Q g) : Q (l.foldl f g) :=
  (List.foldlRecOn (motive := fun g => Grid.square n g ∧ Q g) l f ⟨hg, h⟩ fun g ⟨hg, h⟩ x hx =>
    ⟨square g x hg, keeps x hx g hg h⟩).2

/-- The visit of `x` reaches what holds from then on, when the visits before it keep what it needs. -/
theorem Grid.foldl_reach {P Q : Grid → Prop} {x : α} (hx : x ∈ l)
    (before : ∀ y ∈ l, y ≠ x → ∀ g, Grid.square n g → P g → P (f g y))
    (reach : ∀ g, Grid.square n g → P g → Q (f g x))
    (after : ∀ y ∈ l, ∀ g, Grid.square n g → Q g → Q (f g y)) {g : Grid} (hg : Grid.square n g) (h : P g) :
    Q (l.foldl f g) := by
  induction l generalizing g with
  | nil => simp at hx
  | cons y l ih =>
    obtain ⟨beforeHead, before⟩ := List.forall_mem_cons.mp before
    obtain ⟨-, after⟩ := List.forall_mem_cons.mp after
    by_cases hy : y = x
    · subst hy
      exact Grid.foldl_keeps square after (square g y hg) (reach g hg h)
    · exact ih ((List.mem_cons.mp hx).resolve_left (Ne.symm hy)) before after (square g y hg) (beforeHead hy g hg h)

end

theorem Grid.get_set {n : Nat} {g : Grid} (hg : Grid.square n g) {r c : Nat} (hr : r < n) (hc : c < n) (m : QrCell)
    (r' c' : Nat) : Grid.get (Grid.set g r c m) r' c' = if r = r' ∧ c = c' then m else Grid.get g r' c' := by
  split
  · rename_i h
    rw [← h.1, ← h.2, Grid.get_set_square hg hr hc]
  · rename_i h
    exact Grid.get_set_other g m (not_and_or.mp h)

theorem square_setClipped {n : Nat} {g : Grid} (hg : Grid.square n g) (r c : Int) (m : QrCell) :
    Grid.square n (setClipped n g r c m) := by
  unfold setClipped
  split
  · exact Grid.square_set hg _ _ m
  · exact hg

theorem get_setClipped {n : Nat} {g : Grid} (hg : Grid.square n g) (r c : Int) (m : QrCell) {i j : Nat} (hi : i < n)
    (hj : j < n) : Grid.get (setClipped n g r c m) i j = if r = i ∧ c = j then m else Grid.get g i j := by
  unfold setClipped
  split
  · rw [Grid.get_set hg (by omega) (by omega)]
    exact if_congr (by omega) rfl rfl
  · rw [if_neg (by omega)]

theorem get_setIfUnset_eq {n : Nat} {g : Grid} (hg : Grid.square n g) {r c : Nat} (hr : r < n) (hc : c < n) (m : QrCell)
    (i j : Nat) : Grid.get (setIfUnset g r c m) i j =
      if r = i ∧ c = j ∧ Grid.get g i j = .unset then m else Grid.get g i j := by
  unfold setIfUnset
  split
  · rename_i hu
    rw [Grid.get_set hg hr hc]
    exact if_congr ⟨fun ⟨hi, hj⟩ => ⟨hi, hj, hi ▸ hj ▸ hu⟩, fun ⟨hi, hj, _⟩ => ⟨hi, hj⟩⟩ rfl rfl
  · rename_i hu
    rw [if_neg]
    rintro ⟨rfl, rfl, h⟩
    exact hu h

/-! ### Stamped patterns (R262, R263) -/

/-- A pattern set around an origin, clipped at the edge: what a finder and an alignment pattern share. -/
def stamp (n : Nat) (span : List Int) (cell : Int → Int → QrCell) (r0 c0 : Nat) (g : Grid) : Grid :=
  (pairs span span).foldl (fun g p => setClipped n g (r0 + p.1) (c0 + p.2) (cell p.1 p.2)) g

theorem placeFinder_eq_stamp (n : Nat) (g : Grid) (r0 c0 : Nat) :
    placeFinder n g r0 c0 = stamp n finderSpan finderCell r0 c0 g := rfl

theorem placeAlign_of_unset {n : Nat} {g : Grid} {r c : Nat} (h : Grid.get g r c = .unset) :
    placeAlign n g r c = stamp n alignSpan alignCell r c g := if_pos h

theorem placeAlign_of_ne_unset {n : Nat} {g : Grid} {r c : Nat} (h : Grid.get g r c ≠ .unset) :
    placeAlign n g r c = g := if_neg h

theorem mem_pairs {xs ys : List Int} {p : Int × Int} : p ∈ pairs xs ys ↔ p.1 ∈ xs ∧ p.2 ∈ ys :=
  List.mem_product

section
variable {n : Nat} {span : List Int} (cell : Int → Int → QrCell) (r0 c0 : Nat) {g : Grid}

theorem square_stamp (hg : Grid.square n g) : Grid.square n (stamp n span cell r0 c0 g) :=
  Grid.foldl_keeps (fun _ _ hg => square_setClipped hg _ _ _) (fun _ _ _ hg _ => square_setClipped hg _ _ _) hg hg

theorem get_stamp (hg : Grid.square n g) {i j : Nat} (hi : i < n) (hj : j < n) :
    Grid.get (stamp n span cell r0 c0 g) i j =
      if (i - r0 : Int) ∈ span ∧ (j - c0 : Int) ∈ span then cell (i - r0) (j - c0) else Grid.get g i j := by
  have square (g : Grid) (p : Int × Int) (hg : Grid.square n g) :=
    square_setClipped hg (r0 + p.1) (c0 + p.2) (cell p.1 p.2)
  split
  · rename_i h
    refine Grid.foldl_reach (P := fun _ => True) (Q := fun g => Grid.get g i j = cell (i - r0) (j - c0))
      (x := ((i : Int) - r0, (j : Int) - c0)) square (mem_pairs.mpr h) (fun _ _ _ _ _ => id) (fun g hg _ => ?_)
      (fun p _ g hg hcell => ?_) hg trivial
    · rw [get_setClipped hg _ _ _ hi hj, if_pos (by simp)]
    · rw [get_setClipped hg _ _ _ hi hj]
      split
      · congr 1 <;> omega
      · exact hcell
  · rename_i h
    refine Grid.foldl_keeps (Q := fun g' => Grid.get g' i j = Grid.get g i j) square (fun p hp g' hg' kept => ?_) hg rfl
    obtain ⟨hr, hc⟩ := mem_pairs.mp hp
    rw [get_setClipped hg' _ _ _ hi hj, if_neg, kept]
    rintro ⟨hri, hcj⟩
    exact h ⟨by rwa [← hri, add_sub_cancel_left], by rwa [← hcj, add_sub_cancel_left]⟩

end

theorem mem_finderSpan {x : Int} : x ∈ finderSpan ↔ -1 ≤ x ∧ x ≤ 7 := by
  simp only [finderSpan, List.mem_cons, List.not_mem_nil, or_false]
  omega

theorem mem_alignSpan {x : Int} : x ∈ alignSpan ↔ -2 ≤ x ∧ x ≤ 2 := by
  simp only [alignSpan, List.mem_cons, List.not_mem_nil, or_false]
  omega

/-! ### Finders (R262) -/

/-- The cells of the three finders with their separators. -/
def inFinder (n i j : Nat) : Prop := (i ≤ 7 ∧ (j ≤ 7 ∨ n ≤ j + 8)) ∨ (n ≤ i + 8 ∧ j ≤ 7)

/-- The matrix with the finders placed. -/
def finders (n : Nat) : Grid := placeFinders n (emptyGrid n)

theorem square_finders (n : Nat) : Grid.square n (finders n) :=
  (Grid.Extends.placeFinders n (emptyGrid n)).square (square_emptyGrid n)

theorem get_emptyGrid (n i j : Nat) : Grid.get (emptyGrid n) i j = .unset := by
  simp only [Grid.get_eq, emptyGrid, List.getElem?_replicate]
  split
  · simp only [Option.getD_some, List.getElem?_replicate]
    split <;> rfl
  · rfl

/-- The three finders of R262; the one placed last decides first. -/
theorem get_finders_eq {n i j : Nat} (hi : i < n) (hj : j < n) : Grid.get (finders n) i j =
    if (i - (0 : Nat) : Int) ∈ finderSpan ∧ (j - (n - 7 : Nat) : Int) ∈ finderSpan then
      finderCell (i - (0 : Nat)) (j - (n - 7 : Nat))
    else if (i - (n - 7 : Nat) : Int) ∈ finderSpan ∧ (j - (0 : Nat) : Int) ∈ finderSpan then
      finderCell (i - (n - 7 : Nat)) (j - (0 : Nat))
    else if (i - (0 : Nat) : Int) ∈ finderSpan ∧ (j - (0 : Nat) : Int) ∈ finderSpan then
      finderCell (i - (0 : Nat)) (j - (0 : Nat))
    else .unset := by
  have sq0 := square_emptyGrid n
  have sq1 := square_stamp (span := finderSpan) finderCell 0 0 sq0
  have sq2 := square_stamp (span := finderSpan) finderCell (n - 7) 0 sq1
  simp only [finders, placeFinders, placeFinder_eq_stamp]
  rw [get_stamp _ _ _ sq2 hi hj, get_stamp _ _ _ sq1 hi hj, get_stamp _ _ _ sq0 hi hj, get_emptyGrid]

/-- Every finder stands in its cells; no two of them meet. -/
theorem get_finders {n r0 c0 i j : Nat} (hn : 21 ≤ n) (hi : i < n) (hj : j < n)
    (horigin : (r0 = 0 ∧ c0 = 0) ∨ (r0 = n - 7 ∧ c0 = 0) ∨ (r0 = 0 ∧ c0 = n - 7))
    (hr : (i - r0 : Int) ∈ finderSpan) (hc : (j - c0 : Int) ∈ finderSpan) :
    Grid.get (finders n) i j = finderCell (i - r0) (j - c0) := by
  rw [get_finders_eq hi hj]
  simp only [mem_finderSpan] at *
  obtain ⟨rfl, rfl⟩ | ⟨rfl, rfl⟩ | ⟨rfl, rfl⟩ := horigin
  · rw [if_neg (by omega), if_neg (by omega), if_pos (by omega)]
  · rw [if_neg (by omega), if_pos (by omega)]
  · rw [if_pos (by omega)]

theorem get_finders_ne_unset {n i j : Nat} (hn : 21 ≤ n) (hi : i < n) (hj : j < n) :
    Grid.get (finders n) i j ≠ .unset ↔ inFinder n i j := by
  rw [get_finders_eq hi hj]
  simp only [mem_finderSpan]
  unfold inFinder
  split
  · exact iff_of_true (cellOf_ne_unset _) (by omega)
  split
  · exact iff_of_true (cellOf_ne_unset _) (by omega)
  split
  · exact iff_of_true (cellOf_ne_unset _) (by omega)
  · exact iff_of_false (by simp) (by omega)

/-! ### Alignment patterns (R263) -/

/-- The centers of a version: even, far from each other, and clear of what stands along the edges. -/
theorem alignCenters_spec {v : Nat} (hv : v ≤ 40) : ∀ x ∈ alignCenters v,
    x % 2 = 0 ∧ (x = 6 ∨ x = 4 * v + 10 ∨ (11 ≤ x ∧ x ≤ 4 * v + 3)) ∧
      ∀ y ∈ alignCenters v, x ≠ y → x + 5 ≤ y ∨ y + 5 ≤ x := by
  have all : ∀ v < 41, ∀ x ∈ alignCenters v,
    x % 2 = 0 ∧ (x = 6 ∨ x = 4 * v + 10 ∨ (11 ≤ x ∧ x ≤ 4 * v + 3)) ∧
      ∀ y ∈ alignCenters v, x ≠ y → x + 5 ≤ y ∨ y + 5 ≤ x := by decide +kernel
  exact all v (Nat.lt_succ_of_le hv)

/-- All pairs of centers, in the order of R263. -/
def alignPairs (v : Nat) : List (Nat × Nat) := (alignCenters v).product (alignCenters v)

theorem mem_alignPairs {v : Nat} {p : Nat × Nat} : p ∈ alignPairs v ↔ p.1 ∈ alignCenters v ∧ p.2 ∈ alignCenters v :=
  List.mem_product

theorem placeAlignment_eq (v : Nat) (g : Grid) : placeAlignment v g =
    (alignPairs v).foldl (fun g p => placeAlign (moduleCount v) g p.1 p.2) g := by
  simp only [placeAlignment, alignPairs, List.product, List.foldl_flatMap, List.foldl_map]

/-- The cell (i, j) lies in the alignment pattern centered at (r, c). -/
abbrev inAlign (r c i j : Nat) : Prop := (i - r : Int) ∈ alignSpan ∧ (j - c : Int) ∈ alignSpan

theorem inAlign_iff {r c i j : Nat} : inAlign r c i j ↔ (r ≤ i + 2 ∧ i ≤ r + 2) ∧ c ≤ j + 2 ∧ j ≤ c + 2 := by
  simp only [inAlign, mem_alignSpan]
  omega

theorem square_placeAlign {n : Nat} (g : Grid) (p : Nat × Nat) (hg : Grid.square n g) :
    Grid.square n (placeAlign n g p.1 p.2) := (Grid.Extends.placeAlign _ _ _ _).square hg

theorem get_placeAlign {n : Nat} {g : Grid} (hg : Grid.square n g) (r c : Nat) {i j : Nat} (hi : i < n) (hj : j < n) :
    Grid.get (placeAlign n g r c) i j =
      if Grid.get g r c = .unset ∧ inAlign r c i j then alignCell (i - r) (j - c) else Grid.get g i j := by
  by_cases hu : Grid.get g r c = .unset
  · simp only [placeAlign_of_unset hu, get_stamp alignCell r c hg hi hj, hu, true_and]
  · rw [placeAlign_of_ne_unset hu, if_neg fun h => hu h.1]

section
variable {v : Nat} (hv : v ≤ 40)
include hv

theorem alignPairs_spec {p : Nat × Nat} (hp : p ∈ alignPairs v) :
    (p.1 % 2 = 0 ∧ (p.1 = 6 ∨ p.1 = 4 * v + 10 ∨ (11 ≤ p.1 ∧ p.1 ≤ 4 * v + 3))) ∧
      p.2 % 2 = 0 ∧ (p.2 = 6 ∨ p.2 = 4 * v + 10 ∨ (11 ≤ p.2 ∧ p.2 ≤ 4 * v + 3)) := by
  obtain ⟨hr, hc⟩ := mem_alignPairs.mp hp
  obtain ⟨evenRow, row, -⟩ := alignCenters_spec hv _ hr
  obtain ⟨evenColumn, column, -⟩ := alignCenters_spec hv _ hc
  exact ⟨⟨evenRow, row⟩, evenColumn, column⟩

theorem alignPairs_inside {p : Nat × Nat} (hp : p ∈ alignPairs v) : p.1 < moduleCount v ∧ p.2 < moduleCount v := by
  obtain ⟨⟨-, row⟩, -, column⟩ := alignPairs_spec hv hp
  simp only [moduleCount]
  omega

/-- The patterns of two pairs of centers do not meet. -/
theorem not_inAlign_of_ne {p q : Nat × Nat} (hp : p ∈ alignPairs v) (hq : q ∈ alignPairs v) (hne : q ≠ p) {i j : Nat}
    (h : inAlign p.1 p.2 i j) : ¬inAlign q.1 q.2 i j := by
  obtain ⟨hr, hc⟩ := mem_alignPairs.mp hp
  obtain ⟨hr', hc'⟩ := mem_alignPairs.mp hq
  have rows := (alignCenters_spec hv _ hr).2.2 _ hr'
  have columns := (alignCenters_spec hv _ hc).2.2 _ hc'
  have differ : p.1 ≠ q.1 ∨ p.2 ≠ q.2 := not_and_or.mp fun ⟨h1, h2⟩ => hne (Prod.ext h1.symm h2.symm)
  simp only [inAlign_iff] at *
  omega

/-- A pattern whose center no finder has set stands in its cells. -/
theorem get_placeAlignment {g : Grid} (hg : Grid.square (moduleCount v) g) {p : Nat × Nat} (hp : p ∈ alignPairs v)
    (hu : Grid.get g p.1 p.2 = .unset) {i j : Nat} (hi : i < moduleCount v) (hj : j < moduleCount v)
    (h : inAlign p.1 p.2 i j) : Grid.get (placeAlignment v g) i j = alignCell (i - p.1) (j - p.2) := by
  have center : inAlign p.1 p.2 p.1 p.2 := by simp [inAlign_iff]
  obtain ⟨hr, hc⟩ := alignPairs_inside hv hp
  rw [placeAlignment_eq]
  refine (Grid.foldl_reach (P := fun g => Grid.get g p.1 p.2 = .unset)
    (Q := fun g => Grid.get g p.1 p.2 ≠ .unset ∧ Grid.get g i j = alignCell (i - p.1) (j - p.2)) square_placeAlign hp
    (fun q hq hne g hg hu => ?_) (fun g hg hu => ?_) (fun q hq g hg ⟨hset, hcell⟩ => ?_) hg hu).2
  · rw [get_placeAlign hg _ _ hr hc, if_neg fun h => not_inAlign_of_ne hv hp hq hne center h.2, hu]
  · rw [get_placeAlign hg _ _ hr hc, get_placeAlign hg _ _ hi hj, if_pos ⟨hu, center⟩, if_pos ⟨hu, h⟩]
    exact ⟨cellOf_ne_unset _, rfl⟩
  · by_cases hne : q = p
    · rw [hne, placeAlign_of_ne_unset hset]
      exact ⟨hset, hcell⟩
    · rw [get_placeAlign hg _ _ hr hc, get_placeAlign hg _ _ hi hj,
        if_neg fun h' => not_inAlign_of_ne hv hp hq hne center h'.2,
        if_neg fun h' => not_inAlign_of_ne hv hp hq hne h h'.2]
      exact ⟨hset, hcell⟩

/-- The matrix with the alignment patterns placed. -/
def aligned (v : Nat) : Grid := placeAlignment v (finders (moduleCount v))

omit hv in
theorem square_aligned (v : Nat) : Grid.square (moduleCount v) (aligned v) :=
  (Grid.Extends.placeAlignment v _).square (square_finders _)

/-- The patterns whose center a finder has set are skipped, so every finder stays. -/
theorem get_aligned_of_inFinder (h1 : 1 ≤ v) {i j : Nat} (hi : i < moduleCount v) (hj : j < moduleCount v)
    (h : inFinder (moduleCount v) i j) : Grid.get (aligned v) i j = Grid.get (finders (moduleCount v)) i j := by
  have hn := moduleCount_ge h1
  rw [aligned, placeAlignment_eq]
  refine Grid.foldl_keeps (Q := fun g => ∀ {i j}, i < moduleCount v → j < moduleCount v →
      inFinder (moduleCount v) i j → Grid.get g i j = Grid.get (finders (moduleCount v)) i j) square_placeAlign
    (fun p hp g hg kept i j hi hj h => ?_) (square_finders _) (fun _ _ _ => rfl) hi hj h
  rw [get_placeAlign hg _ _ hi hj, if_neg, kept hi hj h]
  rintro ⟨hu, hin⟩
  obtain ⟨hr, hc⟩ := alignPairs_inside hv hp
  have centers := alignPairs_spec hv hp
  have free : ¬inFinder (moduleCount v) p.1 p.2 := fun h =>
    (get_finders_ne_unset hn hr hc).mpr h (kept hr hc h ▸ hu)
  simp only [inFinder, inAlign_iff, moduleCount] at *
  omega

/-- The cells of row 6 and column 6 between the finders. -/
def onTiming (v i j : Nat) : Prop := (j = 6 ∧ 8 ≤ i ∧ i ≤ 4 * v + 8) ∨ (i = 6 ∧ 8 ≤ j ∧ j ≤ 4 * v + 8)

/-- What an alignment pattern sets of the timing patterns agrees with them. -/
theorem get_aligned_of_onTiming (h1 : 1 ≤ v) {i j : Nat} (h : onTiming v i j) :
    Grid.get (aligned v) i j = .unset ∨ Grid.get (aligned v) i j = cellOf (decide ((i + j) % 2 = 0)) := by
  have hn := moduleCount_ge h1
  have hi : i < moduleCount v := by simp only [onTiming, moduleCount] at *; omega
  have hj : j < moduleCount v := by simp only [onTiming, moduleCount] at *; omega
  have free : Grid.get (finders (moduleCount v)) i j = .unset := by
    by_contra hset
    have := (get_finders_ne_unset hn hi hj).mp hset
    simp only [onTiming, inFinder, moduleCount] at *
    omega
  rw [aligned, placeAlignment_eq]
  refine Grid.foldl_keeps (Q := fun g => Grid.get g i j = .unset ∨ Grid.get g i j = cellOf (decide ((i + j) % 2 = 0)))
    square_placeAlign (fun p hp g hg hcell => ?_) (square_finders _) (.inl free)
  rw [get_placeAlign hg _ _ hi hj]
  split
  · rename_i hin
    obtain ⟨⟨evenRow, row⟩, evenColumn, column⟩ := alignPairs_spec hv hp
    obtain ⟨hrow, hcolumn⟩ := inAlign_iff.mp hin.2
    refine .inr (congrArg cellOf (decide_eq_decide.mpr ?_))
    obtain ⟨rfl, -⟩ | ⟨rfl, -⟩ := h
    · rw [show p.2 = 6 by omega]
      omega
    · rw [show p.1 = 6 by omega]
      omega
  · exact hcell

end

/-! ### Timing patterns (R264) -/

/-- One step of R264: the cells `k` of column 6 and of row 6. -/
def timingVisit (g : Grid) (k : Nat) : Grid :=
  setIfUnset (setIfUnset g k 6 (cellOf (k % 2 == 0))) 6 k (cellOf (k % 2 == 0))

theorem placeTiming_eq (n : Nat) (g : Grid) : placeTiming n g = (List.range n).foldl timingVisit g := rfl

theorem square_timingVisit {n : Nat} (g : Grid) (k : Nat) (hg : Grid.square n g) : Grid.square n (timingVisit g k) :=
  (Grid.Extends.timingStep g k _).square hg

theorem get_timingVisit {n : Nat} {g : Grid} (hg : Grid.square n g) (hn : 6 < n) {k : Nat} (hk : k < n) (i j : Nat) :
    Grid.get (timingVisit g k) i j =
      if Grid.get g i j = .unset ∧ ((k = i ∧ 6 = j) ∨ (6 = i ∧ k = j)) then cellOf (k % 2 == 0)
      else Grid.get g i j := by
  have hg' := (Grid.Extends.setIfUnset (n := n) g k 6 (k % 2 == 0)).square hg
  have hm := cellOf_ne_unset (k % 2 == 0)
  rw [timingVisit, get_setIfUnset_eq hg' hn hk, get_setIfUnset_eq hg hk hn]
  by_cases hu : Grid.get g i j = .unset
  · by_cases hcol : k = i ∧ 6 = j
    · obtain ⟨rfl, rfl⟩ := hcol
      simp only [hu, hm, and_self, and_false, if_true, if_false, true_or]
    · rw [if_neg (c := k = i ∧ 6 = j ∧ _) fun h => hcol ⟨h.1, h.2.1⟩]
      simp only [hu, hcol, false_or, and_true, true_and]
  · simp only [hu, and_false, false_and, if_false]

theorem get_placeTiming_of_ne_unset {n : Nat} {g : Grid} (hg : Grid.square n g) (hn : 6 < n) {i j : Nat}
    (h : Grid.get g i j ≠ .unset) : Grid.get (placeTiming n g) i j = Grid.get g i j := by
  rw [placeTiming_eq]
  refine Grid.foldl_keeps (Q := fun g' => Grid.get g' i j = Grid.get g i j) square_timingVisit
    (fun k hk g' hg' kept => ?_) hg rfl
  rw [get_timingVisit hg' hn (List.mem_range.mp hk), if_neg fun h' => h (kept ▸ h'.1), kept]

/-- The matrix with the timing patterns placed: what the words of R266 to R269 are put into. -/
def timed (v : Nat) : Grid := placeTiming (moduleCount v) (aligned v)

theorem square_timed (v : Nat) : Grid.square (moduleCount v) (timed v) :=
  (Grid.Extends.placeTiming _ _).square (square_aligned v)

theorem get_timed_of_ne_unset {v i j : Nat} (h : Grid.get (aligned v) i j ≠ .unset) :
    Grid.get (timed v) i j = Grid.get (aligned v) i j :=
  get_placeTiming_of_ne_unset (square_aligned v) (by simp only [moduleCount]; omega) h

/-- The timing patterns alternate between the finders, also where an alignment pattern crosses them. -/
theorem get_timed_of_onTiming {v i j : Nat} (h1 : 1 ≤ v) (hv : v ≤ 40) (h : onTiming v i j) :
    Grid.get (timed v) i j = cellOf (decide ((i + j) % 2 = 0)) := by
  have hn : 6 < moduleCount v := by simp only [moduleCount]; omega
  have inside : i + j - 6 < moduleCount v := by
    simp only [onTiming, moduleCount] at *
    omega
  have visited (k : Nat) : (k = i ∧ 6 = j) ∨ (6 = i ∧ k = j) ↔ k = i + j - 6 := by
    simp only [onTiming] at h
    omega
  have cell : cellOf ((i + j - 6) % 2 == 0) = cellOf (decide ((i + j) % 2 = 0)) := by
    refine congrArg cellOf (decide_eq_decide.mpr ?_)
    simp only [onTiming] at h
    omega
  rw [timed, placeTiming_eq]
  refine Grid.foldl_reach
    (P := fun g => Grid.get g i j = .unset ∨ Grid.get g i j = cellOf (decide ((i + j) % 2 = 0)))
    (Q := fun g => Grid.get g i j = cellOf (decide ((i + j) % 2 = 0))) square_timingVisit (List.mem_range.mpr inside)
    (fun k hk hne g hg hcell => ?_) (fun g hg hcell => ?_) (fun k hk g hg hcell => ?_) (square_aligned v)
    (get_aligned_of_onTiming hv h1 h)
  · rwa [get_timingVisit hg hn (List.mem_range.mp hk), if_neg fun h => hne ((visited k).mp h.2)]
  · rw [get_timingVisit hg hn inside, cell]
    split
    · rfl
    · rename_i hset
      exact hcell.resolve_left fun hu => hset ⟨hu, (visited _).mpr rfl⟩
  · rw [get_timingVisit hg hn (List.mem_range.mp hk), if_neg fun h => cellOf_ne_unset _ (hcell ▸ h.1), hcell]

/-! ### The format and version words (R266, R269) -/

/-- Puts bit `i` of a word in its cells of both copies. -/
def putBit (a b : Nat → Nat × Nat) (w : Nat) (g : Grid) (i : Nat) : Grid :=
  Grid.set (Grid.set g (a i).1 (a i).2 (cellOf (w.testBit i))) (b i).1 (b i).2 (cellOf (w.testBit i))

theorem placeFormat_eq (n : Nat) (g : Grid) (f : Nat) :
    placeFormat n g f = (List.range 15).foldl (putBit formatCellA (formatCellB n) f) g := rfl

/-- Where bit `i` of the version word stands in the copy of the top right (R269). -/
def versionCellA (n i : Nat) : Nat × Nat := (i / 3, n - 11 + i % 3)

/-- Where bit `i` of the version word stands in the copy of the bottom left (R269). -/
def versionCellB (n i : Nat) : Nat × Nat := (n - 11 + i % 3, i / 3)

theorem placeVersion_eq (n : Nat) (g : Grid) (w : Nat) :
    placeVersion n g w = (List.range 18).foldl (putBit (versionCellA n) (versionCellB n) w) g := rfl

section
variable {n : Nat} {a b : Nat → Nat × Nat} {k : Nat} (ha : ∀ i < k, (a i).1 < n ∧ (a i).2 < n)
  (hb : ∀ i < k, (b i).1 < n ∧ (b i).2 < n)

theorem square_putBit (a b : Nat → Nat × Nat) (w : Nat) (g : Grid) (i : Nat) (hg : Grid.square n g) :
    Grid.square n (putBit a b w g i) := Grid.square_set (Grid.square_set hg _ _ _) _ _ _

include ha hb

theorem get_putBit (w : Nat) {g : Grid} (hg : Grid.square n g) {i : Nat} (hi : i < k) (p : Nat × Nat) :
    Grid.get (putBit a b w g i) p.1 p.2 =
      if a i = p ∨ b i = p then cellOf (w.testBit i) else Grid.get g p.1 p.2 := by
  have hg' := Grid.square_set hg (a i).1 (a i).2 (cellOf (w.testBit i))
  rw [putBit, Grid.get_set hg' (hb i hi).1 (hb i hi).2, Grid.get_set hg (ha i hi).1 (ha i hi).2]
  simp only [← Prod.ext_iff]
  by_cases h : b i = p
  · rw [if_pos h, if_pos (.inr h)]
  · simp only [h, if_false, or_false]

/-- A word's cells are the only ones it sets. -/
theorem get_foldl_putBit_other (w : Nat) {g : Grid} (hg : Grid.square n g) {p : Nat × Nat}
    (h : ∀ i < k, a i ≠ p ∧ b i ≠ p) :
    Grid.get ((List.range k).foldl (putBit a b w) g) p.1 p.2 = Grid.get g p.1 p.2 := by
  refine Grid.foldl_keeps (Q := fun g' => Grid.get g' p.1 p.2 = Grid.get g p.1 p.2) (square_putBit a b w)
    (fun i hi g' hg' kept => ?_) hg rfl
  have hi := List.mem_range.mp hi
  rw [get_putBit ha hb w hg' hi, if_neg (not_or.mpr (h i hi)), kept]

/-- A cell that is bit `i`'s alone holds it in the end. -/
theorem get_foldl_putBit (w : Nat) {g : Grid} (hg : Grid.square n g) {p : Nat × Nat} {i : Nat} (hi : i < k)
    (h : ∀ x < k, a x = p ∨ b x = p ↔ x = i) :
    Grid.get ((List.range k).foldl (putBit a b w) g) p.1 p.2 = cellOf (w.testBit i) := by
  refine Grid.foldl_reach (P := fun _ => True) (Q := fun g => Grid.get g p.1 p.2 = cellOf (w.testBit i))
    (square_putBit a b w) (List.mem_range.mpr hi) (fun _ _ _ _ _ => id) (fun g hg _ => ?_) (fun x hx g hg hcell => ?_)
    hg trivial
  · rw [get_putBit ha hb w hg hi, if_pos ((h i hi).mpr rfl)]
  · have hx := List.mem_range.mp hx
    rw [get_putBit ha hb w hg hx]
    split
    · rename_i hp
      rw [(h x hx).mp hp]
    · exact hcell

end

theorem formatCellA_eq_iff {i : Nat} {p : Nat × Nat} : formatCellA i = p ↔
    (i ≤ 5 ∧ p.1 = i ∧ p.2 = 8) ∨ (i = 6 ∧ p.1 = 7 ∧ p.2 = 8) ∨ (i = 7 ∧ p.1 = 8 ∧ p.2 = 8) ∨
      (i = 8 ∧ p.1 = 8 ∧ p.2 = 7) ∨ (9 ≤ i ∧ p.1 = 8 ∧ p.2 = 14 - i) := by
  unfold formatCellA
  split_ifs <;> simp only [Prod.ext_iff] <;> omega

theorem formatCellB_eq_iff {n i : Nat} {p : Nat × Nat} : formatCellB n i = p ↔
    (i ≤ 7 ∧ p.1 = 8 ∧ p.2 = n - 1 - i) ∨ (8 ≤ i ∧ p.1 = n - 15 + i ∧ p.2 = 8) := by
  unfold formatCellB
  split_ifs <;> simp only [Prod.ext_iff] <;> omega

theorem versionCellA_eq_iff {n i : Nat} {p : Nat × Nat} :
    versionCellA n i = p ↔ p.1 = i / 3 ∧ p.2 = n - 11 + i % 3 := by
  rw [versionCellA, Prod.ext_iff, eq_comm (b := p.1), eq_comm (b := p.2)]

theorem versionCellB_eq_iff {n i : Nat} {p : Nat × Nat} :
    versionCellB n i = p ↔ p.1 = n - 11 + i % 3 ∧ p.2 = i / 3 := by
  rw [versionCellB, Prod.ext_iff, eq_comm (b := p.1), eq_comm (b := p.2)]

/-- The cells of both copies of the format word, and the dark module (R266, R267). -/
def inFormat (n i j : Nat) : Prop :=
  (i = 8 ∧ j ≠ 6 ∧ (j ≤ 8 ∨ n ≤ j + 8)) ∨ (j = 8 ∧ i ≠ 6 ∧ (i ≤ 8 ∨ n ≤ i + 8))

/-- The cells of both copies of the version word (R269). -/
def inVersion (n i j : Nat) : Prop := (i ≤ 5 ∧ n ≤ j + 11 ∧ j + 9 ≤ n) ∨ (j ≤ 5 ∧ n ≤ i + 11 ∧ i + 9 ≤ n)

section
variable {n : Nat} (hn : 21 ≤ n)
include hn

theorem formatCellA_inside : ∀ i < 15, (formatCellA i).1 < n ∧ (formatCellA i).2 < n := by
  intro i hi
  have := formatCellA_eq_iff.mp (Eq.refl (formatCellA i))
  omega

theorem formatCellB_inside : ∀ i < 15, (formatCellB n i).1 < n ∧ (formatCellB n i).2 < n := by
  intro i hi
  have := formatCellB_eq_iff.mp (Eq.refl (formatCellB n i))
  omega

theorem versionCellA_inside : ∀ i < 18, (versionCellA n i).1 < n ∧ (versionCellA n i).2 < n := by
  intro i hi
  simp only [versionCellA]
  omega

theorem versionCellB_inside : ∀ i < 18, (versionCellB n i).1 < n ∧ (versionCellB n i).2 < n := by
  intro i hi
  simp only [versionCellB]
  omega

theorem get_placeFormat {g : Grid} (hg : Grid.square n g) (f : Nat) {p : Nat × Nat} {i : Nat} (hi : i < 15)
    (hp : formatCellA i = p ∨ formatCellB n i = p) : Grid.get (placeFormat n g f) p.1 p.2 = cellOf (f.testBit i) := by
  rw [placeFormat_eq]
  refine get_foldl_putBit (formatCellA_inside hn) (formatCellB_inside hn) f hg hi fun x hx => ⟨fun hx => ?_, ?_⟩
  · simp only [formatCellA_eq_iff, formatCellB_eq_iff] at hp hx
    omega
  · rintro rfl
    exact hp

theorem get_placeFormat_other {g : Grid} (hg : Grid.square n g) (f : Nat) {i j : Nat} (h : ¬inFormat n i j) :
    Grid.get (placeFormat n g f) i j = Grid.get g i j := by
  rw [placeFormat_eq]
  refine get_foldl_putBit_other (p := (i, j)) (formatCellA_inside hn) (formatCellB_inside hn) f hg fun x hx => ?_
  simp only [inFormat, formatCellA_eq_iff, formatCellB_eq_iff, ne_eq] at *
  omega

theorem get_placeVersion {g : Grid} (hg : Grid.square n g) (w : Nat) {p : Nat × Nat} {i : Nat} (hi : i < 18)
    (hp : versionCellA n i = p ∨ versionCellB n i = p) :
    Grid.get (placeVersion n g w) p.1 p.2 = cellOf (w.testBit i) := by
  rw [placeVersion_eq]
  refine get_foldl_putBit (versionCellA_inside hn) (versionCellB_inside hn) w hg hi fun x hx => ?_
  simp only [versionCellA_eq_iff, versionCellB_eq_iff] at *
  omega

theorem get_placeVersion_other {g : Grid} (hg : Grid.square n g) (w : Nat) {i j : Nat} (h : ¬inVersion n i j) :
    Grid.get (placeVersion n g w) i j = Grid.get g i j := by
  rw [placeVersion_eq]
  refine get_foldl_putBit_other (p := (i, j)) (versionCellA_inside hn) (versionCellB_inside hn) w hg fun x hx => ?_
  simp only [inVersion, versionCellA_eq_iff, versionCellB_eq_iff, ne_eq] at *
  omega

end

/-! ### The function patterns (R260) -/

/-- The matrix with the format word and the dark module placed. -/
def formatted (v : Nat) (e : BitVec 2) (m : BitVec 3) : Grid :=
  Grid.set (placeFormat (moduleCount v) (timed v) (bchFormat e m)) (moduleCount v - 8) 8 .dark

theorem functionPatterns_eq (v : Nat) (e : BitVec 2) (m : BitVec 3) : functionPatterns v e m =
    if 7 ≤ v then placeVersion (moduleCount v) (formatted v e m) (bchVersion v) else formatted v e m := rfl

theorem square_placeFormat_timed (v f : Nat) : Grid.square (moduleCount v) (placeFormat (moduleCount v) (timed v) f) :=
  (Grid.Extends.placeFormat _ _ _).square (square_timed v)

section
variable {v : Nat} (h1 : 1 ≤ v) (e : BitVec 2) (m : BitVec 3)
include h1

theorem get_formatted (i j : Nat) : Grid.get (formatted v e m) i j = if moduleCount v - 8 = i ∧ 8 = j then .dark
    else Grid.get (placeFormat (moduleCount v) (timed v) (bchFormat e m)) i j :=
  Grid.get_set (square_placeFormat_timed v _) (by have := moduleCount_ge h1; omega) (by have := moduleCount_ge h1; omega)
    _ i j

theorem get_functionPatterns {i j : Nat} (h : ¬inVersion (moduleCount v) i j) :
    Grid.get (functionPatterns v e m) i j = Grid.get (formatted v e m) i j := by
  rw [functionPatterns_eq]
  split
  · exact get_placeVersion_other (moduleCount_ge h1) (Grid.square_set (square_placeFormat_timed v _) _ _ _) _ h
  · rfl

/-- Outside the words' cells the patterns placed first stand. -/
theorem get_functionPatterns_eq_timed {i j : Nat} (hversion : ¬inVersion (moduleCount v) i j)
    (hformat : ¬inFormat (moduleCount v) i j) : Grid.get (functionPatterns v e m) i j = Grid.get (timed v) i j := by
  rw [get_functionPatterns h1 e m hversion, get_formatted h1, if_neg,
    get_placeFormat_other (moduleCount_ge h1) (square_timed v) _ hformat]
  have := moduleCount_ge h1
  simp only [inFormat] at hformat
  omega

end

/-- What the function patterns set to light or dark, a layout shows (R271). -/
theorem get_layout_of_functionPatterns {v : Nat} {e : BitVec 2} {m : BitVec 3} (cs : List Byte) {i j : Nat} {b : Bool}
    (h : Grid.get (functionPatterns v e m) i j = cellOf b) : Grid.get (layout v e m cs) i j = cellOf b :=
  (get_layout_of_ne_unset cs (h ▸ cellOf_ne_unset b)).trans h

section
variable {v : Nat} (h1 : 1 ≤ v) (e : BitVec 2) (m : BitVec 3) (cs : List Byte)
include h1

theorem get_layout_format {p : Nat × Nat} {i : Nat} (hi : i < 15)
    (hp : formatCellA i = p ∨ formatCellB (moduleCount v) i = p) :
    Grid.get (layout v e m cs) p.1 p.2 = cellOf ((bchFormat e m).testBit i) := by
  have hn := moduleCount_ge h1
  refine get_layout_of_functionPatterns cs ?_
  rw [get_functionPatterns h1, get_formatted h1, if_neg, get_placeFormat hn (square_timed v) _ hi hp]
  · simp only [formatCellA_eq_iff, formatCellB_eq_iff] at hp
    omega
  · simp only [inVersion, formatCellA_eq_iff, formatCellB_eq_iff] at *
    omega

theorem get_layout_version (h7 : 7 ≤ v) {p : Nat × Nat} {i : Nat} (hi : i < 18)
    (hp : versionCellA (moduleCount v) i = p ∨ versionCellB (moduleCount v) i = p) :
    Grid.get (layout v e m cs) p.1 p.2 = cellOf ((bchVersion v).testBit i) := by
  refine get_layout_of_functionPatterns cs ?_
  rw [functionPatterns_eq, if_pos h7]
  exact get_placeVersion (moduleCount_ge h1) (Grid.square_set (square_placeFormat_timed v _) _ _ _) _ hi hp

end

/-- The cells of R266's copy A, row and column apart. -/
theorem formatCellA_eq (i : Nat) : formatCellA i =
    (if i ≤ 5 then i else if i = 6 then 7 else 8, if i ≤ 7 then 8 else if i = 8 then 7 else 14 - i) := by
  rw [formatCellA_eq_iff]
  split_ifs <;> dsimp only <;> omega

/-- Settles O44: each cell of a word is one bit's alone, and nothing that is placed later sets it. -/
theorem formatAndVersionWordsStand : Obligations.FormatAndVersionWordsStand := by
  refine fun v e m c h1 _ => ⟨fun i hi => ?_, fun i hi => ?_, fun i h8 hi => ?_, fun h7 i hi => ⟨?_, ?_⟩⟩
  · exact get_layout_format (p := (if i ≤ 5 then i else if i = 6 then 7 else 8,
      if i ≤ 7 then 8 else if i = 8 then 7 else 14 - i)) h1 e m c hi (.inl (formatCellA_eq i))
  · refine get_layout_format (p := (8, 4 * v + 16 - i)) h1 e m c (by omega) (.inr (formatCellB_eq_iff.mpr ?_))
    dsimp only [moduleCount]
    omega
  · refine get_layout_format (p := (4 * v + 2 + i, 8)) h1 e m c hi (.inr (formatCellB_eq_iff.mpr ?_))
    dsimp only [moduleCount]
    omega
  · exact get_layout_version (p := (i / 3, 4 * v + 6 + i % 3)) h1 e m c h7 hi (.inl rfl)
  · exact get_layout_version (p := (4 * v + 6 + i % 3, i / 3)) h1 e m c h7 hi (.inr rfl)

/-! ### The patterns in every layout (R262-R264, R267) -/

section
variable {v : Nat} (h1 : 1 ≤ v) (e : BitVec 2) (m : BitVec 3) (cs : List Byte)
include h1

theorem get_layout_of_timed {i j : Nat} {b : Bool} (hversion : ¬inVersion (moduleCount v) i j)
    (hformat : ¬inFormat (moduleCount v) i j) (h : Grid.get (timed v) i j = cellOf b) :
    Grid.get (layout v e m cs) i j = cellOf b :=
  get_layout_of_functionPatterns cs ((get_functionPatterns_eq_timed h1 e m hversion hformat).trans h)

theorem get_layout_of_aligned {i j : Nat} {b : Bool} (hversion : ¬inVersion (moduleCount v) i j)
    (hformat : ¬inFormat (moduleCount v) i j) (h : Grid.get (aligned v) i j = cellOf b) :
    Grid.get (layout v e m cs) i j = cellOf b :=
  get_layout_of_timed h1 e m cs hversion hformat ((get_timed_of_ne_unset (h ▸ cellOf_ne_unset b)).trans h)

theorem get_layout_dark : Grid.get (layout v e m cs) (4 * v + 9) 8 = .dark := by
  refine get_layout_of_functionPatterns (b := true) cs ?_
  rw [get_functionPatterns h1, get_formatted h1, if_pos ⟨rfl, rfl⟩, cellOf, if_pos rfl]
  simp only [inVersion, moduleCount]
  omega

variable (hv : v ≤ 40)
include hv

theorem get_layout_finder {r0 c0 i j : Nat}
    (horigin : (r0 = 0 ∧ c0 = 0) ∨ (r0 = 4 * v + 10 ∧ c0 = 0) ∨ (r0 = 0 ∧ c0 = 4 * v + 10))
    (hi : i < 4 * v + 17) (hj : j < 4 * v + 17) (hr : (i - r0 : Int) ∈ finderSpan) (hc : (j - c0 : Int) ∈ finderSpan) :
    Grid.get (layout v e m cs) i j = finderCell (i - r0) (j - c0) := by
  have inside : inFinder (moduleCount v) i j := by
    simp only [mem_finderSpan, inFinder, moduleCount] at *
    omega
  refine get_layout_of_aligned h1 e m cs ?_ ?_
    ((get_aligned_of_inFinder hv h1 hi hj inside).trans (get_finders (moduleCount_ge h1) hi hj horigin hr hc))
  · simp only [inFinder, inVersion, moduleCount] at *
    omega
  · simp only [inFinder, inFormat, moduleCount] at *
    omega

theorem get_layout_align {r c i j : Nat} (hp : (r, c) ∈ alignPairs v) (hfree : ¬inFinder (moduleCount v) r c)
    (h : inAlign r c i j) : Grid.get (layout v e m cs) i j = alignCell (i - r) (j - c) := by
  have centers := alignPairs_spec hv hp
  have inside : i < moduleCount v ∧ j < moduleCount v := by
    simp only [inAlign_iff, moduleCount] at *
    omega
  obtain ⟨hr, hc⟩ := alignPairs_inside hv hp
  have unset : Grid.get (finders (moduleCount v)) r c = .unset :=
    by_contra fun hset => hfree ((get_finders_ne_unset (moduleCount_ge h1) hr hc).mp hset)
  refine get_layout_of_aligned h1 e m cs ?_ ?_
    (get_placeAlignment hv (square_finders _) hp unset inside.1 inside.2 h)
  · simp only [inAlign_iff, inFinder, inVersion, moduleCount] at *
    omega
  · simp only [inAlign_iff, inFinder, inFormat, moduleCount] at *
    omega

theorem get_layout_timing {i j : Nat} (h : onTiming v i j) :
    Grid.get (layout v e m cs) i j = cellOf (decide ((i + j) % 2 = 0)) := by
  refine get_layout_of_timed h1 e m cs ?_ ?_ (get_timed_of_onTiming h1 hv h)
  · simp only [onTiming, inVersion, moduleCount] at *
    omega
  · simp only [onTiming, inFormat, moduleCount] at *
    omega

end

/-- Settles O43: the finders stand because later alignment patterns skip them, an alignment pattern because no other
meets it, and none of the words' cells is one of theirs. -/
theorem functionPatternsStand : Obligations.FunctionPatternsStand := by
  refine fun v e m c h1 hv => ⟨fun r0 c0 horigin r k hr hr' hk hk' hi hi' hj hj' => ?_,
    fun r hr k hk h66 h6n hn6 dr dc hdr hdr' hdc hdc' => ?_, fun k hk hk' => ⟨?_, ?_⟩, get_layout_dark h1 e m c⟩
  · have row : ((r0 + r).toNat - r0 : Int) = r := by omega
    have column : ((c0 + k).toNat - c0 : Int) = k := by omega
    rw [get_layout_finder h1 e m c hv horigin (by omega) (by omega) (by rw [row, mem_finderSpan]; omega)
      (by rw [column, mem_finderSpan]; omega), row, column, finderCell]
  · have hp : (r, k) ∈ alignPairs v := mem_alignPairs.mpr ⟨hr, hk⟩
    have centers := alignPairs_spec hv hp
    have row : ((r + dr).toNat - r : Int) = dr := by omega
    have column : ((k + dc).toNat - k : Int) = dc := by omega
    rw [get_layout_align h1 e m c hv hp ?_ ⟨by rw [row, mem_alignSpan]; omega, by rw [column, mem_alignSpan]; omega⟩,
      row, column, alignCell]
    simp only [inFinder, moduleCount]
    omega
  · rw [get_layout_timing h1 e m c hv (.inl ⟨rfl, hk, hk'⟩)]
    exact congrArg cellOf (decide_eq_decide.mpr (by omega))
  · rw [get_layout_timing h1 e m c hv (.inr ⟨rfl, hk, hk'⟩)]
    exact congrArg cellOf (decide_eq_decide.mpr (by omega))

end Sys2Proof.Machine

/-! ## Penalty scoring (spec/46_mask_penalty.md R301-R306) -/

namespace Sys2Proof.Machine

/-! ### The lines of a matrix -/

theorem resolved.square {n : Nat} {g : Grid} (h : resolved n g) : Grid.square n g :=
  ⟨h.1, fun row hrow => (h.2 row hrow).1⟩

@[simp] theorem length_rowLine (n : Nat) (g : Grid) (r : Nat) : (rowLine n g r).length = n := by simp [rowLine]

@[simp] theorem length_columnLine (n : Nat) (g : Grid) (c : Nat) : (columnLine n g c).length = n := by
  simp [columnLine]

theorem sumBelow_succ (n : Nat) (f : Nat → Nat) : sumBelow (n + 1) f = f 0 + sumBelow n (fun k => f (k + 1)) := by
  simp [sumBelow, List.range_succ_eq_map, Function.comp_def]

theorem sumBelow_congr {n : Nat} {f f' : Nat → Nat} (h : ∀ k < n, f k = f' k) : sumBelow n f = sumBelow n f' :=
  congrArg List.sum (List.map_congr_left fun k hk => h k (List.mem_range.mp hk))

theorem sumBelow_le {n m : Nat} {f : Nat → Nat} (h : ∀ k < n, f k ≤ m) : sumBelow n f ≤ n * m := by
  have := List.sum_le_card_nsmul ((List.range n).map f) m (by simpa using h)
  simpa [sumBelow] using this

/-- How many of the indices below `n + 1` satisfy a predicate: the first, and the others one lower. -/
theorem countP_range_succ (n : Nat) (p : Nat → Bool) : (List.range (n + 1)).countP p =
    (if p 0 then 1 else 0) + (List.range n).countP (fun k => p (k + 1)) := by
  rw [List.range_succ_eq_map, List.countP_cons, List.countP_map, Nat.add_comm]
  rfl

/-- The rows of a square matrix are its row lines. -/
theorem map_rowLine {n : Nat} {g : Grid} (hg : Grid.square n g) : (List.range n).map (rowLine n g) = g := by
  obtain ⟨rows, cells⟩ := hg
  refine List.ext_getElem (by simp [rows]) fun r _ hr => ?_
  have row := cells _ (List.getElem_mem hr)
  refine List.ext_getElem (by simp [row]) fun c _ hc => ?_
  simp [rowLine, Grid.get_eq, hr, hc]

theorem columns_eq {n : Nat} {g : Grid} (hg : Grid.square n g) :
    columns g = (List.range n).map (columnLine n g) := by
  have column (c : Nat) : columnLine n g c = g.map (fun row => row.getD c .unset) := by
    refine List.ext_getElem (by simp [hg.1]) fun r _ hr => ?_
    rw [List.length_map] at hr
    simp [columnLine, Grid.get_eq, hr]
  rw [columns, hg.1]
  exact List.map_congr_left fun c _ => (column c).symm

/-- A sum over the lines of a square matrix: its rows', then its columns'. -/
theorem sum_map_gridLines {n : Nat} {g : Grid} (hg : Grid.square n g) (f : List QrCell → Nat) :
    ((gridLines g).map f).sum =
      sumBelow n (fun r => f (rowLine n g r)) + sumBelow n (fun c => f (columnLine n g c)) := by
  rw [gridLines, List.map_append, List.sum_append, columns_eq hg, List.map_map]
  conv_lhs => rw [← map_rowLine hg, List.map_map]
  rw [map_rowLine hg]
  rfl

/-! ### Runs (R301) -/

/-- A run of `k` cells of `x` and what follows it split into the runs `runsFrom` measures. -/
theorem exists_runs_from (x : QrCell) {k : Nat} (hk : 1 ≤ k) (line : List QrCell) :
    ∃ m rest, splitsIntoRuns (List.replicate k x ++ line) ((x, m) :: rest) ∧
      m :: rest.map Prod.snd = runsFrom x k line := by
  induction line generalizing x k with
  | nil => exact ⟨k, [], ⟨by simp, by simpa using hk, by simp⟩, rfl⟩
  | cons y line ih =>
    rw [runsFrom]
    split
    · rename_i hyx
      obtain ⟨m, rest, split, lens⟩ := ih x (Nat.le_succ_of_le hk)
      refine ⟨m, rest, ?_, lens⟩
      rwa [hyx, ← List.singleton_append, ← List.append_assoc, ← List.replicate_succ']
    · rename_i hyx
      obtain ⟨m, rest, ⟨cells, nonempty, differ⟩, lens⟩ := ih y le_rfl
      refine ⟨k, (y, m) :: rest, ⟨?_, ?_, ?_⟩, by rw [List.map_cons, lens]⟩
      · rw [List.flatMap_cons, ← cells]
        rfl
      · exact List.forall_mem_cons.mpr ⟨hk, nonempty⟩
      · exact List.forall_mem_cons.mpr ⟨Ne.symm hyx, differ⟩

/-- Every line splits into the maximal runs `runLengths` measures (R301). -/
theorem exists_runs (line : List QrCell) :
    ∃ runs, splitsIntoRuns line runs ∧ runs.map Prod.snd = runLengths line := by
  cases line with
  | nil => exact ⟨[], ⟨rfl, by simp, by simp⟩, rfl⟩
  | cons x line =>
    obtain ⟨m, rest, split, lens⟩ := exists_runs_from x le_rfl line
    exact ⟨_, split, lens⟩

/-- A run shorter than five adds nothing (R301). -/
theorem sum_runPenalty (runs : List (QrCell × Nat)) :
    ((runs.map Prod.snd).map runPenalty).sum = runPoints runs := by
  induction runs with
  | nil => rfl
  | cons r runs ih =>
    rw [List.map_cons, List.map_cons, List.sum_cons, ih, runPenalty, runPoints, runPoints, List.filter_cons]
    by_cases h : 5 ≤ r.2 <;> simp [h]

theorem penalty1_eq {n : Nat} {g : Grid} (hg : Grid.square n g) :
    ∃ rows cols : Nat → List (QrCell × Nat),
      (∀ r, r < n → splitsIntoRuns (rowLine n g r) (rows r)) ∧
      (∀ c, c < n → splitsIntoRuns (columnLine n g c) (cols c)) ∧
      penalty1 g = sumBelow n (fun r => runPoints (rows r)) + sumBelow n (fun c => runPoints (cols c)) := by
  choose runs splits lens using exists_runs
  refine ⟨fun r => runs (rowLine n g r), fun c => runs (columnLine n g c), fun _ _ => splits _, fun _ _ => splits _,
    ?_⟩
  simp only [penalty1, sum_map_gridLines hg, ← lens, sum_runPenalty]

/-- Runs add at most one for each cell: no more than the cells they hold (R301). -/
theorem sum_runsFrom_le (x : QrCell) (k : Nat) (line : List QrCell) :
    ((runsFrom x k line).map runPenalty).sum ≤ k + line.length := by
  have run (k : Nat) : runPenalty k ≤ k := by
    rw [runPenalty]
    split <;> omega
  induction line generalizing x k with
  | nil => simpa [runsFrom] using run k
  | cons y line ih =>
    rw [runsFrom, List.length_cons]
    split
    · exact (ih x (k + 1)).trans (by omega)
    · rw [List.map_cons, List.sum_cons]
      have := run k
      have := ih y 1
      omega

theorem sum_runLengths_le (line : List QrCell) : ((runLengths line).map runPenalty).sum ≤ line.length := by
  cases line with
  | nil => rfl
  | cons x line => exact (sum_runsFrom_le x 1 line).trans (by rw [List.length_cons]; omega)

/-! ### Blocks (R302) -/

theorem rowBlocks_eq {top bot : List QrCell} (h : top.length = bot.length) : rowBlocks top bot =
    (List.range (top.length - 1)).countP (fun c => decide (top.getD c .unset = top.getD (c + 1) .unset ∧
      top.getD c .unset = bot.getD c .unset ∧ top.getD c .unset = bot.getD (c + 1) .unset)) := by
  induction top, bot using rowBlocks.induct with
  | case1 a b top c d bot ih =>
    rw [rowBlocks, ih (by simpa using h)]
    simp [countP_range_succ]
  | case2 top bot short =>
    have narrow : top.length ≤ 1 := by
      rcases top with - | ⟨a, - | ⟨b, top⟩⟩
      · simp
      · simp
      · rcases bot with - | ⟨c, - | ⟨d, bot⟩⟩
        · simp at h
        · simp at h
        · exact (short _ _ _ _ _ _ rfl rfl).elim
    rw [rowBlocks.eq_2 _ _ short, Nat.sub_eq_zero_of_le narrow]
    rfl

theorem gridBlocks_eq (g : Grid) :
    gridBlocks g = sumBelow (g.length - 1) (fun r => rowBlocks (g.getD r []) (g.getD (r + 1) [])) := by
  induction g using gridBlocks.induct with
  | case1 r1 r2 rows ih =>
    rw [gridBlocks, ih]
    simp [sumBelow_succ]
  | case2 g short =>
    rcases g with - | ⟨r1, - | ⟨r2, rows⟩⟩
    · rfl
    · rfl
    · exact (short _ _ _ rfl).elim

theorem gridBlocks_eq_equalBlocks {n : Nat} {g : Grid} (hg : Grid.square n g) : gridBlocks g = equalBlocks n g := by
  rw [gridBlocks_eq, hg.1, equalBlocks]
  refine sumBelow_congr fun r hr => ?_
  have row {k : Nat} (hk : k < n) : (g.getD k []).length = n := by
    rw [List.getD_eq_getElem _ _ (hg.1.symm ▸ hk)]
    exact hg.2 _ (List.getElem_mem _)
  have hr0 := row (k := r) (by omega)
  rw [rowBlocks_eq (hr0.trans (row (by omega)).symm), hr0]
  rfl

/-! ### Finder-like patterns (R303) -/

theorem take_eq_finderLike {cells : List QrCell} : cells.take 7 = finderLike ↔
    ∀ i, i < 7 → cells[i]? = some (if i = 1 ∨ i = 5 then .light else .dark) := by
  have pattern : ∀ i < 7, finderLike[i]? = some (if i = 1 ∨ i = 5 then .light else .dark) := by decide
  constructor
  · intro h i hi
    rw [← pattern i hi, ← h, List.getElem?_take_of_lt hi]
  · intro h
    refine List.ext_getElem? fun i => ?_
    by_cases hi : i < 7
    · rw [List.getElem?_take_of_lt hi, h i hi, pattern i hi]
    · rw [List.getElem?_take_eq_none (by omega), List.getElem?_eq_none (by simpa [finderLike] using hi)]

/-- Only a start with seven cells from it on can hold the pattern (R303). -/
theorem finderCount_eq (line : List QrCell) : finderCount line = patternStarts line.length line := by
  induction line with
  | nil => rfl
  | cons x line ih =>
    rw [finderCount, ih, patternStarts, patternStarts, List.length_cons]
    by_cases long : 6 ≤ line.length
    · rw [show line.length + 1 - 6 = line.length - 6 + 1 by omega, countP_range_succ]
      simp only [take_eq_finderLike, Nat.zero_add, decide_eq_true_eq, Nat.add_right_comm _ 1, List.getElem?_cons_succ]
    · have short : (x :: line).take 7 ≠ finderLike := fun h => by
        have := congrArg List.length h
        simp [finderLike] at this
        omega
      rw [if_neg short, Nat.sub_eq_zero_of_le (by omega), Nat.sub_eq_zero_of_le (by omega)]
      rfl

theorem penalty3_eq {n : Nat} {g : Grid} (hg : Grid.square n g) : penalty3 g =
    40 * (sumBelow n (fun r => patternStarts n (rowLine n g r)) +
      sumBelow n (fun c => patternStarts n (columnLine n g c))) := by
  simp only [penalty3, sum_map_gridLines hg, finderCount_eq, length_rowLine, length_columnLine]

/-! ### Balance (R304) -/

theorem darkCount_eq {n : Nat} {g : Grid} (hg : Grid.square n g) : darkCount g = darkCells n g := by
  rw [darkCount, darkCells, sumBelow]
  conv_lhs => rw [← map_rowLine hg, List.map_map]
  refine congrArg List.sum (List.map_congr_left fun r _ => ?_)
  rw [Function.comp_apply, rowLine, List.count, List.countP_map]
  rfl

theorem penalty4_eq {n : Nat} {g : Grid} (hg : Grid.square n g) : penalty4 g =
    10 * (((20 * darkCells n g - 10 * (n * n)) + (10 * (n * n) - 20 * darkCells n g)) / (n * n)) := by
  rw [penalty4, darkCount_eq hg, hg.1]
  generalize n * n = cells
  congr 2
  omega

/-! ### No score is lost (R306) -/

theorem darkCells_le (n : Nat) (g : Grid) : darkCells n g ≤ n * n :=
  sumBelow_le fun _ _ => List.countP_le_length.trans_eq List.length_range

theorem equalBlocks_le (n : Nat) (g : Grid) : equalBlocks n g ≤ n * n :=
  (sumBelow_le fun _ _ => List.countP_le_length.trans_eq List.length_range).trans
    (Nat.mul_le_mul (Nat.sub_le _ _) (Nat.sub_le _ _))

/-- What a line adds, at most one for each of its cells, adds up over all lines. -/
theorem sum_map_gridLines_le {n : Nat} {g : Grid} (hg : Grid.square n g) {f : List QrCell → Nat}
    (h : ∀ line, f line ≤ line.length) : ((gridLines g).map f).sum ≤ 2 * (n * n) := by
  rw [sum_map_gridLines hg, Nat.two_mul]
  exact Nat.add_le_add (sumBelow_le fun r _ => (h _).trans_eq (length_rowLine n g r))
    (sumBelow_le fun c _ => (h _).trans_eq (length_columnLine n g c))

theorem penalty4_le {n : Nat} {g : Grid} (hg : Grid.square n g) : penalty4 g ≤ 100 := by
  rw [penalty4_eq hg]
  refine Nat.mul_le_mul_left 10 (Nat.div_le_of_le_mul ?_ : _ ≤ 10)
  have := darkCells_le n g
  omega

theorem finderCount_le (line : List QrCell) : finderCount line ≤ line.length := by
  rw [finderCount_eq, patternStarts]
  exact (List.countP_le_length.trans_eq List.length_range).trans (Nat.sub_le _ _)

/-- The scores of matrices of the sizes there are fit a register (R261, R306). -/
theorem score_lt {n : Nat} {g : Grid} (hg : Grid.square n g) (hn : n ≤ 177) : score g < 2 ^ 32 := by
  have cells : n * n ≤ 177 * 177 := Nat.mul_le_mul hn hn
  have runs : penalty1 g ≤ 2 * (n * n) := sum_map_gridLines_le hg sum_runLengths_le
  have blocks := equalBlocks_le n g
  have patterns := sum_map_gridLines_le hg finderCount_le
  have balance := penalty4_le hg
  rw [score, penalty2, gridBlocks_eq_equalBlocks hg, penalty3]
  omega

/-- A score below 2^32 and its parts stand in their registers as they are. -/
theorem toNat_storeScoreOf (s : State) {g : Grid} (h : score g < 2 ^ 32) :
    (s.storeScoreOf g).penalty.toNat = score g ∧ (s.storeScoreOf g).penR1.toNat = penalty1 g ∧
      (s.storeScoreOf g).penR2.toNat = penalty2 g ∧ (s.storeScoreOf g).penR3.toNat = penalty3 g ∧
      (s.storeScoreOf g).penR4.toNat = penalty4 g := by
  have parts : score g = penalty1 g + penalty2 g + penalty3 g + penalty4 g := rfl
  exact ⟨Nat.mod_eq_of_lt h, Nat.mod_eq_of_lt (by omega), Nat.mod_eq_of_lt (by omega), Nat.mod_eq_of_lt (by omega),
    Nat.mod_eq_of_lt (by omega)⟩

/-! ### QR_PENALTY (R306) -/

/-- MATRIX shows the matrix it holds (spec/20_memory.md R70). -/
theorem shownGrid_eq {s : State} (h : resolved s.qrSize.toNat s.matrix) : s.shownGrid = s.matrix :=
  map_rowLine h.square

theorem penaltyOutcome_of_resolved {s : State} (h0 : s.qrSize ≠ 0) (h : resolved s.qrSize.toNat s.matrix) :
    penaltyOutcome s = .ok (s.storeScoreOf s.matrix) := by
  rw [penaltyOutcome, if_neg h0, shownGrid_eq h]

/-- Settles O36: a square matrix is its row lines and its column lines, and the model counts each line as the rules
do; of at most 177 by 177 cells the score is far below 2^32. -/
theorem qrPenaltyScoresTheMatrix : Obligations.QrPenaltyScoresTheMatrix := by
  refine ⟨fun s inv matrix h0 => ?_, fun n g h => ?_⟩
  · obtain ⟨-, held⟩ := matrix.resolve_left fun absent => h0 absent.1
    have size := (inv.matrix_held h0).2
    have ver := inv.ver_le
    have lossless : score s.matrix < 2 ^ 32 := score_lt held.square (by omega)
    obtain ⟨total, p1, p2, p3, p4⟩ := toNat_storeScoreOf s lossless
    refine ⟨(s.storeScoreOf s.matrix).succeed, ?_, rfl, p1, p2, p3, p4, ?_, rfl, rfl, rfl, rfl⟩
    · rw [exec_eq_complete, outcome, penaltyOutcome_of_resolved h0 held, complete_ok]
    · simp only [succeed_penalty, succeed_penR1, succeed_penR2, succeed_penR3, succeed_penR4, total, p1, p2, p3, p4]
      rfl
  · exact ⟨penalty1_eq h.square, congrArg (3 * ·) (gridBlocks_eq_equalBlocks h.square), penalty3_eq h.square,
      penalty4_eq h.square, rfl⟩

end Sys2Proof.Machine

/-! ## Mask selection (spec/46_mask_penalty.md R310-R313) -/

namespace Sys2Proof.Machine

/-! ### The best mask (R310) -/

/-- Of the scores `f 0` to `f (n - 1)` that of `b` is the lowest, and `b` the least index that has it. -/
structure IsBest (f : Nat → Nat) (n b : Nat) : Prop where
  lt : b < n
  le : ∀ j < n, f b ≤ f j
  least : ∀ j < b, f b < f j

/-- The loop's step: a strictly lower score replaces the best one (R310). -/
theorem IsBest.step {f : Nat → Nat} {k b : Nat} (h : IsBest f k b) :
    IsBest f (k + 1) (if f k < f b then k else b) := by
  split
  · rename_i lower
    exact ⟨k.lt_succ_self, Nat.forall_lt_succ_right.mpr ⟨fun j hj => lower.le.trans (h.le j hj), le_rfl⟩,
      fun j hj => lower.trans_le (h.le j hj)⟩
  · rename_i lower
    exact ⟨Nat.lt_succ_of_lt h.lt, Nat.forall_lt_succ_right.mpr ⟨h.le, Nat.le_of_not_lt lower⟩, h.least⟩

theorem bestFrom_cons (f : Nat → Nat) (b k : Nat) (xs : List Nat) : bestFrom b (f b) k (f k :: xs) =
    bestFrom (if f k < f b then k else b) (f (if f k < f b then k else b)) (k + 1) xs := by
  rw [bestFrom]
  split <;> rfl

theorem isBest_bestFrom {f : Nat → Nat} {k b : Nat} (h : IsBest f k b) (m : Nat) :
    IsBest f (k + m) (bestFrom b (f b) k ((List.range' k m).map f)) := by
  induction m generalizing k b with
  | zero => exact h
  | succ m ih =>
    rw [List.range'_succ, List.map_cons, bestFrom_cons, ← Nat.succ_add_eq_add_succ]
    exact ih h.step

theorem isBest_bestMask (f : Nat → Nat) (n : Nat) : IsBest f (n + 1) (bestMask ((List.range (n + 1)).map f)) := by
  have first : IsBest f 1 0 := ⟨Nat.one_pos, fun j hj => by rw [Nat.lt_one_iff.mp hj], by simp⟩
  rw [List.range_eq_range', List.range'_succ, List.map_cons, bestMask, Nat.add_comm n]
  exact isBest_bestFrom first n

/-! ### QR_MASKSEL (R311) -/

/-- The score of trial `k` of the automatic selection (R310). -/
def trialScore (u : State) (k : Nat) : Nat := score (u.layoutOf (BitVec.ofNat 3 k))

theorem trialScore_toNat (u : State) (m : BitVec 3) : trialScore u m.toNat = score (u.layoutOf m) := by
  rw [trialScore, BitVec.ofNat_toNat, BitVec.setWidth_eq]

theorem score_layoutOf_lt {u : State} (hv : u.qrVer.toNat ≤ 40) (m : BitVec 3) : score (u.layoutOf m) < 2 ^ 32 :=
  score_lt (layout_resolved _ _ _ _).square (by rw [moduleCount]; omega)

/-- The state an automatic QR_MASKSEL ends in, `u` holding the codewords (R311). -/
def autoMasked (u : State) : State := (u.selectAuto.setQrState .maskChosen).succeed

theorem exec_qrMaskSel_auto {s u : State} (hv : s.qrState.hasVersion = true) (h8 : s.cfg.mreq = 8)
    (hu : ensureCw s = .ok u) : exec .qrMaskSel s = .next (autoMasked u) := by
  rw [exec_eq_complete, outcome, maskSelOutcome_of_auto hv h8 hu, complete_ok, autoMasked]

section
variable (u : State)

@[simp] theorem autoMasked_err : (autoMasked u).err = false := succeed_err _
@[simp] theorem autoMasked_qrState : (autoMasked u).qrState = .maskChosen := by simp [autoMasked]
@[simp] theorem autoMasked_qrVer : (autoMasked u).qrVer = u.qrVer := by simp [autoMasked]
@[simp] theorem autoMasked_cfg : (autoMasked u).cfg = u.cfg := by simp [autoMasked]
@[simp] theorem autoMasked_cwValid : (autoMasked u).cwValid = u.cwValid := by simp [autoMasked]
@[simp] theorem autoMasked_chosenValid : (autoMasked u).chosenValid = true := by simp [autoMasked]

@[simp] theorem autoMasked_layoutMask : (autoMasked u).layoutMask = 7 := by
  simp [autoMasked, State.selectAuto, State.layOut]

@[simp] theorem autoMasked_layoutTest : (autoMasked u).layoutTest = true := by
  simp [autoMasked, State.selectAuto, State.layOut]

@[simp] theorem autoMasked_qrSize : (autoMasked u).qrSize = (u.layOut 7 true).qrSize := by
  simp [autoMasked, State.selectAuto, State.layOut, State.storeScoreOf]

@[simp] theorem autoMasked_codewords : (autoMasked u).codewords = u.codewords := by
  simp [autoMasked, State.selectAuto, State.layOut, State.storeScoreOf, State.codewords, State.ramBytes,
    State.ramByte, State.genOf]

@[simp] theorem autoMasked_layoutOf (m : BitVec 3) : (autoMasked u).layoutOf m = u.layoutOf m := by
  simp [State.layoutOf]

/-- The last trial is left in MATRIX (R311). -/
theorem autoMasked_matrix : (autoMasked u).matrix = u.layoutOf 7 := by
  simp [autoMasked, State.selectAuto, State.layOut, State.storeScoreOf, State.layoutOf, State.codewords,
    State.ramBytes, State.ramByte, State.genOf]

theorem autoMasked_chosen :
    (autoMasked u).chosen = BitVec.ofNat 3 (bestMask ((List.range 8).map (trialScore u))) := by
  simp only [autoMasked, State.selectAuto, succeed_chosen, setQrState_chosen, choose_chosen]
  rfl

theorem isBest_autoMasked : IsBest (trialScore u) 8 (autoMasked u).chosen.toNat := by
  have best := isBest_bestMask (trialScore u) 7
  rwa [autoMasked_chosen, BitVec.toNat_ofNat, Nat.mod_eq_of_lt best.lt]

theorem autoMasked_mscore (k : Fin 8) : (autoMasked u).mscore[k] = BitVec.ofNat 32 (trialScore u k.val) := by
  simp [autoMasked, State.selectAuto, State.layOut, State.storeScoreOf, trialScores, trialScore, State.layoutOf]

theorem autoMasked_chosenScore :
    (autoMasked u).chosenScore = BitVec.ofNat 32 (score (u.layoutOf (autoMasked u).chosen)) := by
  rw [State.chosenScore, autoMasked_mscore, Fin.val_ofNat, Nat.mod_eq_of_lt (autoMasked u).chosen.isLt,
    trialScore_toNat]

/-- The winner's score is reported (R311). -/
theorem autoMasked_penalty : (autoMasked u).penalty = (autoMasked u).chosenScore := by
  rw [autoMasked_chosenScore]
  simp [autoMasked, State.selectAuto, State.layOut, State.storeScoreOf]

/-- The parts reported are those of the winner's score (R311). -/
theorem toNat_autoMasked_parts (hv : u.qrVer.toNat ≤ 40) :
    (autoMasked u).penR1.toNat = penalty1 (u.layoutOf (autoMasked u).chosen) ∧
      (autoMasked u).penR2.toNat = penalty2 (u.layoutOf (autoMasked u).chosen) ∧
      (autoMasked u).penR3.toNat = penalty3 (u.layoutOf (autoMasked u).chosen) ∧
      (autoMasked u).penR4.toNat = penalty4 (u.layoutOf (autoMasked u).chosen) := by
  obtain ⟨-, parts⟩ := toNat_storeScoreOf u (score_layoutOf_lt hv (autoMasked u).chosen)
  simpa [autoMasked, State.selectAuto, State.layOut, State.storeScoreOf] using parts

end

/-- Settles O37: the loop keeps the best of the trials it has seen, and no trial's score is cut off in its
register. -/
theorem qrMaskSelChoosesTheBestMask : Obligations.QrMaskSelChoosesTheBestMask := by
  refine ⟨fun s inv hv h8 hb => ?_, fun s hv h7 => ?_, fun s hv h8 hb => ?_⟩
  · obtain ⟨u, hu⟩ := ensureCw_of_canBuild hb
    obtain ⟨hcw, -, hver⟩ := ensureCw_kept hu
    have ver : u.qrVer.toNat ≤ 40 := hver ▸ inv.ver_le
    have mscore (k : Fin 8) : ((autoMasked u).mscore[k]).toNat = trialScore u k.val := by
      rw [autoMasked_mscore]
      exact Nat.mod_eq_of_lt (score_layoutOf_lt ver _)
    have chosenScore : (autoMasked u).chosenScore.toNat = trialScore u (autoMasked u).chosen.toNat := by
      rw [autoMasked_chosenScore, trialScore_toNat]
      exact Nat.mod_eq_of_lt (score_layoutOf_lt ver _)
    obtain ⟨p1, p2, p3, p4⟩ := toNat_autoMasked_parts u ver
    have best := isBest_autoMasked u
    refine ⟨_, exec_qrMaskSel_auto hv h8 hu, autoMasked_err u, autoMasked_qrState u, autoMasked_chosenValid u, ?_⟩
    rw [layoutCodewords_of_ensureCw hv hu, ← hver, ← (ensureCw_choice hu).1]
    refine ⟨mscore, fun k => ?_, fun k hk => ?_, autoMasked_penalty u, p1, p2, p3, p4, autoMasked_matrix u,
      autoMasked_qrSize u ▸ toNat_qrSize_layOut ver 7 true, autoMasked_layoutMask u, autoMasked_layoutTest u,
      (autoMasked_cwValid u).trans hcw, autoMasked_codewords u⟩
    · rw [chosenScore, mscore]
      exact best.le _ k.isLt
    · rw [chosenScore, mscore]
      exact best.least _ hk
  · have fixed : s.cfg.mreq ≠ 8 := by
      rintro h8
      simp [h8] at h7
    refine ⟨s.cfg.mreq.setWidth 3, ?_, ?_⟩
    · rw [BitVec.toNat_setWidth]
      omega
    · rw [exec_eq_complete, outcome, maskSelOutcome_of_fixed hv fixed, complete_ok]
  · rw [exec_eq_complete, outcome, maskSelOutcome_of_not_canBuild hv h8 hb, complete_error]

/-! ### QR_FINAL (R312) -/

theorem exec_qrFinal {s u : State} (hv : s.qrState.hasVersion = true) (hc : s.chosenValid = true)
    (hu : ensureCw s = .ok u) : exec .qrFinal s = .next (finished u).succeed := by
  rw [exec_eq_complete, outcome, finalOutcome_of_ensureCw hv hc hu, complete_ok, finished]

section
variable (c : State)

@[simp] theorem finished_cwValid : (finished c).cwValid = c.cwValid := by simp [finished, State.layOut]
@[simp] theorem finished_layoutTest : (finished c).layoutTest = false := by simp [finished, State.layOut]
@[simp] theorem finished_penalty : (finished c).penalty = c.penalty := by simp [finished, State.layOut]
@[simp] theorem finished_mscore : (finished c).mscore = c.mscore := by simp [finished, State.layOut]

@[simp] theorem finished_qrSize : (finished c).qrSize = (c.layOut c.chosen false).qrSize := by
  simp [finished, State.layOut]

theorem finished_matrix_eq_layoutOf : (finished c).matrix = c.layoutOf c.chosen := by
  rw [finished_matrix, finished_qrVer, finished_cfg, finished_chosen, finished_codewords, State.layoutOf]

end

/-- ensureCW() writes no penalty register and no MSCOREk. -/
theorem ensureCw_scores {s t : State} (h : ensureCw s = .ok t) : t.penalty = s.penalty ∧ t.mscore = s.mscore := by
  obtain ⟨-, rfl⟩ | ⟨-, hb⟩ := ensureCw_ok h
  · exact ⟨rfl, rfl⟩
  · obtain ⟨d, c, -, -, rfl⟩ := buildCodewords_ok hb
    exact ⟨rfl, rfl⟩

/-- Settles O38: the codeword build keeps the choice and the scores, and the layout writes neither. -/
theorem qrFinalPutsTheChosenMatrix : Obligations.QrFinalPutsTheChosenMatrix := by
  refine ⟨fun s inv hv hc hb => ?_, fun s hv hc hb => ?_⟩
  · obtain ⟨u, hu⟩ := ensureCw_of_canBuild hb
    obtain ⟨hcw, -, hver⟩ := ensureCw_kept hu
    obtain ⟨hcfg, hchosen, hvalid⟩ := ensureCw_choice hu
    obtain ⟨hpenalty, hmscore⟩ := ensureCw_scores hu
    have size := toNat_qrSize_layOut (hver ▸ inv.ver_le) u.chosen false
    refine ⟨_, exec_qrFinal hv hc hu, succeed_err _, finished_qrState u, ?_⟩
    rw [layoutCodewords_of_ensureCw hv hu, ← hver, ← hcfg, ← hchosen]
    exact ⟨finished_matrix_eq_layoutOf u, finished_qrSize u ▸ size, finished_layoutMask u, finished_layoutTest u,
      (finished_cwValid u).trans hcw, finished_codewords u, finished_chosen u,
      (finished_chosenValid u).trans (hvalid.trans hc), (finished_penalty u).trans hpenalty,
      (finished_mscore u).trans hmscore⟩
  · rw [exec_eq_complete, outcome, finalOutcome_of_not_canBuild hv hc hb, complete_error]

/-! ### The winner's score (R313) -/

/-- QR_PENALTY scores the matrix QR_FINAL put in MATRIX (R306, R312). -/
theorem exec_qrPenalty_finished {a : State} (hv : a.qrVer.toNat ≤ 40) : exec .qrPenalty (finished a).succeed =
    .next ((finished a).succeed.storeScoreOf (a.layoutOf a.chosen)).succeed := by
  have matrix : (finished a).succeed.matrix = a.layoutOf a.chosen := finished_matrix_eq_layoutOf a
  have size : (finished a).succeed.qrSize.toNat = moduleCount a.qrVer.toNat :=
    finished_qrSize a ▸ toNat_qrSize_layOut hv a.chosen false
  have held : (finished a).succeed.qrSize ≠ 0 := fun h0 => by
    rw [h0, moduleCount] at size
    simp at size
  have shown : resolved (finished a).succeed.qrSize.toNat (finished a).succeed.matrix := by
    rw [size, matrix]
    exact layout_resolved _ _ _ _
  rw [exec_eq_complete, outcome, penaltyOutcome_of_resolved held shown, complete_ok, matrix]

/-- Settles O39: QR_FINAL lays out from the codewords that the winning trial was made of. -/
theorem finalMatrixScoresAsTheWinner : Obligations.FinalMatrixScoresAsTheWinner := by
  intro s inv hv h8 hb
  obtain ⟨u, hu⟩ := ensureCw_of_canBuild hb
  obtain ⟨hcw, -, hver⟩ := ensureCw_kept hu
  have ver : (autoMasked u).qrVer.toNat ≤ 40 := by
    rw [autoMasked_qrVer, hver]
    exact inv.ver_le
  have held : (autoMasked u).cwValid = true := (autoMasked_cwValid u).trans hcw
  refine ⟨_, _, _, exec_qrMaskSel_auto hv h8 hu, autoMasked_err u,
    exec_qrFinal (by simp [QrState.hasVersion]) (autoMasked_chosenValid u) (ensureCw_of_cwValid held), succeed_err _,
    exec_qrPenalty_finished ver, succeed_err _, ?_, ?_, ?_⟩
  · rw [autoMasked_chosenScore]
    simp [State.storeScoreOf]
  · simp [State.storeScoreOf]
  · simp [State.storeScoreOf]

end Sys2Proof.Machine

/-! ## The CRC-16 unit (spec/47_crc16.md) -/

namespace Sys2Proof.Machine

/-! ### Folding over a string in pieces (R331, R334) -/

@[simp] theorem crcFold_cons (c : BitVec 16) (x : Byte) (a : List Byte) :
    crcFold c (x :: a) = crcFold (crcStep c x) a := rfl

theorem crcFold_append (c : BitVec 16) (a b : List Byte) : crcFold c (a ++ b) = crcFold (crcFold c a) b :=
  List.foldl_append

theorem inbufBytes_add (s : State) (o j k : Nat) :
    s.inbufBytes o (j + k) = s.inbufBytes o j ++ s.inbufBytes (o + j) k := by
  simp [State.inbufBytes, State.ramBytes, List.range_add, Nat.add_assoc]

/-! ### The commands (R332-R334) -/

theorem crcBufOutcome_of_inside {s : State} (h : inbufRangeOk s.arg0 s.arg1 = true) :
    crcBufOutcome s = .ok (s.setCrc (crcFold s.crc (s.inbufBytes s.arg0.toNat s.arg1.toNat))) := if_pos h

theorem crcBufOutcome_of_outside {s : State} (h : ¬inbufRangeOk s.arg0 s.arg1 = true) :
    crcBufOutcome s = .error .rangeError := if_neg h

theorem exec_crcBuf_of_inside {s : State} (hoff : s.arg0.toNat ≤ 4095) (hlen : s.arg0.toNat + s.arg1.toNat ≤ 4096) :
    exec .crcBuf s =
      .next (s.setCrc (crcFold s.crc (s.inbufBytes s.arg0.toNat s.arg1.toNat))).succeed := by
  rw [exec_eq_complete, outcome, crcBufOutcome_of_inside (inbufRangeOk_iff.mpr ⟨hoff, hlen⟩), complete_ok]

/-- CRC_BUF with its range given as numbers. -/
theorem exec_crcBuf_range (s : State) {o k : Nat} (hoff : o ≤ 4095) (hlen : o + k ≤ 4096) :
    exec .crcBuf ((s.setArg0 (BitVec.ofNat 32 o)).setArg1 (BitVec.ofNat 32 k)) =
      .next (((s.setArg0 (BitVec.ofNat 32 o)).setArg1 (BitVec.ofNat 32 k)).setCrc
        (crcFold s.crc (s.inbufBytes o k))).succeed := by
  have ho : (BitVec.ofNat 32 o).toNat = o := Nat.mod_eq_of_lt (by omega)
  have hk : (BitVec.ofNat 32 k).toNat = k := Nat.mod_eq_of_lt (by omega)
  rw [exec_crcBuf_of_inside (by simpa [ho] using hoff) (by simpa [ho, hk] using hlen), setArg1_arg0, setArg0_arg0,
    setArg1_arg1, ho, hk]
  rfl

/-- Settles O26: a range in two pieces is the two pieces' bytes, and CRC_BUF leaves INBUF as it is. -/
theorem crcCommandsFoldTheBytes : Obligations.CrcCommandsFoldTheBytes := by
  refine ⟨exec_eq_complete .crcInit, fun b => exec_eq_complete (.crcByte b), fun s => exec_crcBuf_of_inside,
    fun s hbad => ?_, fun s t u o j k hj hk ht hu => ?_⟩
  · have bad : ¬inbufRangeOk s.arg0 s.arg1 = true := by
      rw [inbufRangeOk_iff]
      omega
    rw [exec_eq_complete, outcome, crcBufOutcome_of_outside bad, complete_error]
  · have ho : o = BitVec.ofNat 32 o.toNat := by rw [BitVec.ofNat_toNat, BitVec.setWidth_eq]
    rw [ho] at ht ⊢
    rw [exec_crcBuf_range s (by omega) (by omega)] at ht
    cases ht
    rw [exec_crcBuf_range _ (by omega) (by omega)] at hu
    cases hu
    refine ⟨_, exec_crcBuf_range s (by omega) (by omega), ?_⟩
    rw [inbufBytes_add, succeed_crc, setCrc_crc, crcFold_append]
    rfl

/-! ### Linearity (R336(a)) -/

/-- What a shift adds when the given bit leaves the register (R330). -/
def crcFeedback (b : Bool) : BitVec 16 := if b then 0x1021 else 0

theorem crcFeedback_xor (b e : Bool) : crcFeedback (b ^^ e) = crcFeedback b ^^^ crcFeedback e := by
  cases b <;> cases e <;> rfl

theorem crcShift_eq_feedback (c : BitVec 16) : crcShift c = c <<< 1 ^^^ crcFeedback (c.getLsbD 15) := by
  rw [crcShift, crcFeedback]
  split
  · rfl
  · exact BitVec.xor_zero.symm

theorem crcShift_xor (c d : BitVec 16) : crcShift (c ^^^ d) = crcShift c ^^^ crcShift d := by
  rw [crcShift_eq_feedback, BitVec.getLsbD_xor, crcFeedback_xor, BitVec.shiftLeft_xor_distrib, crcShift_eq_feedback,
    crcShift_eq_feedback]
  ac_rfl

theorem crcShifts_xor (n : Nat) (c d : BitVec 16) : crcShifts n (c ^^^ d) = crcShifts n c ^^^ crcShifts n d := by
  induction n generalizing c d with
  | zero => rfl
  | succ n ih => rw [crcShifts, crcShift_xor, ih, crcShifts, crcShifts]

theorem crcStep_xor (c d : BitVec 16) (x y : Byte) : crcStep (c ^^^ d) (x ^^^ y) = crcStep c x ^^^ crcStep d y := by
  rw [crcStep, crcStep, crcStep, ← crcShifts_xor, BitVec.setWidth_xor, BitVec.shiftLeft_xor_distrib]
  congr 1
  ac_rfl

/-- Folding is linear in register and bytes together; the third string is the zeros. -/
theorem crcFold_zipWith_xor (c d e : BitVec 16) {a b : List Byte} (h : a.length = b.length) :
    crcFold (c ^^^ d ^^^ e) (List.zipWith (fun x y => x ^^^ y) a b) =
      crcFold c a ^^^ crcFold d b ^^^ crcFold e (List.replicate a.length 0) := by
  induction a generalizing b c d e with
  | nil =>
    obtain rfl : b = [] := List.length_eq_zero_iff.mp h.symm
    rfl
  | cons x a ih =>
    obtain ⟨y, b, rfl⟩ := List.exists_cons_of_length_eq_add_one h.symm
    have stepped : crcStep (c ^^^ d ^^^ e) (x ^^^ y) = crcStep c x ^^^ crcStep d y ^^^ crcStep e 0 := by
      rw [← crcStep_xor, ← crcStep_xor]
      simp
    rw [List.zipWith_cons_cons, List.length_cons, List.replicate_succ]
    simp only [crcFold_cons]
    rw [stepped, ih _ _ _ (Nat.succ.inj h)]

/-! ### Appending the register (R336(b)) -/

/-- Shifts that push no 1 out of the register are plain shifts. -/
theorem crcShifts_of_lt {n : Nat} {c : BitVec 16} (h : c.toNat * 2 ^ n < 2 ^ 16) : crcShifts n c = c <<< n := by
  induction n generalizing c with
  | zero => simp [crcShifts]
  | succ n ih =>
    have small : c.toNat * 2 < 2 ^ 16 :=
      (Nat.mul_le_mul_left _ (Nat.le_self_pow (Nat.succ_ne_zero n) 2)).trans_lt h
    have top : c.getLsbD 15 = false :=
      (BitVec.testBit_toNat c).symm.trans (Nat.testBit_lt_two_pow (by omega))
    have doubled : (c <<< 1).toNat = c.toNat * 2 := by
      rw [BitVec.toNat_shiftLeft, Nat.shiftLeft_eq, Nat.pow_one, Nat.mod_eq_of_lt small]
    have room : (c <<< 1).toNat * 2 ^ n < 2 ^ 16 := by
      rwa [doubled, Nat.mul_assoc, Nat.mul_comm 2, ← Nat.pow_succ]
    rw [crcShifts, crcShift, top, if_neg Bool.false_ne_true, ih room, Nat.add_comm, BitVec.shiftLeft_add]

/-- A register's high byte leaves its low byte, shifted up. -/
theorem crcStep_high (c : BitVec 16) :
    crcStep c (c.extractLsb' 8 8) = (c.extractLsb' 0 8).setWidth 16 <<< 8 := by
  have low : c ^^^ ((c.extractLsb' 8 8).setWidth 16 <<< 8) = (c.extractLsb' 0 8).setWidth 16 := by
    ext i hi
    obtain h | h := Nat.lt_or_ge i 8
    · simp [h, BitVec.getLsbD_eq_getElem hi]
    · have index : 8 + (i - 8) = i := by omega
      have inside : i - 8 < 8 := by omega
      simp [Nat.not_lt.mpr h, index, inside, BitVec.getLsbD_eq_getElem hi]
  have room : ((c.extractLsb' 0 8).setWidth 16).toNat * 2 ^ 8 < 2 ^ 16 := by
    rw [BitVec.toNat_setWidth]
    omega
  rw [crcStep, low, crcShifts_of_lt room]

theorem crcFold_register (c : BitVec 16) : crcFold c [c.extractLsb' 8 8, c.extractLsb' 0 8] = 0 := by
  rw [crcFold_cons, crcStep_high, crcFold_cons, crcStep, BitVec.xor_self]
  rfl

/-- Settles O27: each shift is linear, and a register's own bytes cancel it. -/
theorem crcLaws : Obligations.CrcLaws := by
  refine ⟨fun a b => crcFold_zipWith_xor 0xFFFF 0xFFFF 0xFFFF, fun s => ?_, by decide +kernel, by decide +kernel,
    by decide +kernel, by decide +kernel⟩
  rw [crc16, crcFold_append]
  exact crcFold_register _

end Sys2Proof.Machine

/-! ## Power-on and soft reset (spec/70_reset_and_hazards.md R380-R383) -/

namespace Sys2Proof.Machine

/-- Without a matrix every byte of MATRIX reads 0x00 (R70). -/
theorem matrixByte_of_no_matrix {s : State} (h : s.qrSize = 0) (k : Nat) : s.matrixByte k = 0 := by
  simp [State.matrixByte, h]

/-- Settles O47: the registers in turn, and a block with no matrix and no listed byte. -/
theorem powerOnReset : Obligations.PowerOnReset := by
  refine ⟨fun r => ?_, matrixByte_of_no_matrix rfl, Memory.read_nil, rfl, rfl, rfl, rfl, rfl, rfl⟩
  cases r with
  | mscore k => exact Vector.getElem_replicate k.isLt
  | segOff k | segLen k => simp [State.readReg, State.reset]
  | _ => rfl

/-- Power-on and a soft reset set the registers alike (R382). -/
theorem regInv_reset : State.reset.RegInv := { regInv_softReset State.reset with }

theorem statusInv_reset : State.reset.StatusInv := by constructor <;> decide

/-- Nothing is listed, and nothing has to be: every length is 0. -/
theorem bytesInv_reset : State.reset.BytesInv where
  wf := Memory.reset_wf
  inRam := List.forall_mem_nil _
  pr := fun _ h => absurd h (Nat.not_lt_zero _)
  bb := fun _ h => absurd h (Nat.not_lt_zero _)
  bbTail := fun _ _ h => absurd h (Nat.not_lt_zero _)
  cw := fun h => absurd h Bool.false_ne_true

/-- Settles O56: each invariant at its registers' reset values. -/
theorem resetMeetsTheInvariants : Obligations.ResetMeetsTheInvariants :=
  ⟨regInv_reset, statusInv_reset, bytesInv_reset, matrixInv_of_absent rfl rfl⟩

/-- After a soft reset every register reads as after power-on (R382). -/
theorem readReg_softReset (s : State) (r : Reg) : s.softReset.readReg r = State.reset.readReg r := by
  cases r <;> rfl

/-- A soft reset unlists bytes of PR, BB and CW only (R383). -/
theorem windowByte_softReset (s : State) {w : Window} {k : Nat} (hw : w ∈ [Window.pa, .pb, .inbuf])
    (hk : k < w.size) : s.softReset.windowByte w k = s.windowByte w k := by
  have other {x : Window} (hx : x ∈ [Window.pr, .bb, .cw]) : w ≠ x := by
    rintro rfl
    revert hw hx
    cases w <;> decide
  rw [windowByte_eq_ramByte _ _ hw, windowByte_eq_ramByte _ _ hw]
  refine ramByte_congr ?_ (genOf_outside (W := fun x => x ∈ [Window.pr, .bb, .cw])
    (fun x hx => holds_other (other (of_decide_eq_true hx)) hk) ?_ ?_ ?_)
  · exact ((read_setWindow_other _ [] (other (by decide)) hk).trans
      (read_setWindow_other _ [] (other (by decide)) hk)).trans (read_setWindow_other _ [] (other (by decide)) hk)
  all_goals exact fun h => absurd h (by decide)

/-- A write of CTRL with SRST = 1, whatever IRQ_EN it gives. -/
theorem writeCtrl_of_srst {v : Word} (s : State) (h : v.getLsbD 0 = true) : s.writeCtrl v = s.softReset := if_pos h

/-- A host's write of CTRL is never a HostHazard. -/
theorem step_of_ctrl_write {s : State} {v : Word} {ts : List Turn}
    (h : s.turns = .host (.write .full 0x004 v) :: ts) :
    step s = .next (((s.setTurns ts).writeCtrl v).respond .wrote) := by
  rw [step_of_host_turn h]
  exact hostAccess_write_reg (r := .ctrl) v rfl (by simp [Target.isOperand])

/-- Settles O48: the step is the soft reset, whose registers are those of power-on and whose PA, PB and INBUF are
those of before. -/
theorem softResetRestoresTheRegisters : Obligations.SoftResetRestoresTheRegisters := by
  intro s ts v hts hv
  have hstep := step_of_ctrl_write hts
  rw [writeCtrl_of_srst _ hv] at hstep
  have kept {w : Window} (hw : w ∈ [Window.pa, .pb, .inbuf]) {k : Nat} (hk : k < w.size) :
      ((s.setTurns ts).softReset.respond .wrote).windowByte w k = s.windowByte w k := by
    have same := windowByte_softReset (s.setTurns ts) hw hk
    rw [windowByte_eq_ramByte _ _ hw, windowByte_eq_ramByte _ _ hw] at same ⊢
    exact same
  exact ⟨_, hstep, rfl, readReg_softReset (s.setTurns ts), rfl, rfl, rfl, rfl, rfl, rfl, matrixByte_of_no_matrix rfl,
    fun _ hk => ⟨kept (w := .pa) (by decide) hk, kept (w := .pb) (by decide) hk⟩,
    fun _ hk => kept (w := .inbuf) (by decide) hk⟩

end Sys2Proof.Machine

/-! ## The interrupt line (spec/60_exceptions.md R360) -/

namespace Sys2Proof.Machine

/-! ### The three registers that drive the line -/

/-- CTRL, STATUS and CMD stand at one offset each (R24). -/
theorem offset_of_regAt {off : Nat} :
    (regAt off = .ctrl → off = 0x004) ∧ (regAt off = .status → off = 0x008) ∧
      (regAt off = .cmd → off = 0x010) := by
  unfold regAt
  split
  -- the indexed and the reserved registers
  case h_26 => split_ifs <;> simp
  all_goals simp

/-- A register is reached by a 32-bit access at the offset the map gives it (R63). -/
theorem targetOf_reg {width : Width} {off : Nat} {r : Reg} (h : targetOf width off = .ok (.reg r)) :
    width = .full ∧ regAt off = r := by
  unfold targetOf at h
  split at h
  · split at h
    · rename_i hw
      exact ⟨hw.1, by simpa using h⟩
    · simp at h
  · split at h
    · simp at h
    · split at h <;> simp at h

theorem irq_writeCtrl (s : State) (v : Word) :
    (s.writeCtrl v).irq = (!v.getLsbD 0 && v.getLsbD 1 && s.done) := by
  cases h : v.getLsbD 0 with
  | true => rw [writeCtrl_of_srst s h]; rfl
  | false => rw [writeCtrl_of_no_srst s h]; rfl

theorem irq_clearStatus (s : State) (v : Word) : (s.clearStatus v).irq = (s.irq && !v.getLsbD 1) :=
  (Bool.and_assoc ..).symm

/-- A write of CMD lowers the line where it is accepted (R121), and leaves it where it is dropped (R122). -/
theorem irq_writeCmd (s : State) (w : Word) : (s.writeCmd w).irq = (s.irq && s.busy) := by
  cases h : s.busy with
  | true => rw [writeCmd_of_busy w h, Bool.and_true]; rfl
  | false => rw [writeCmd_of_idle w h, Bool.and_false]; exact Bool.and_false _

/-- A write of anything else leaves the line. -/
theorem irq_writeTarget_of_ne {s : State} {width : Width} {v : Word} {tg : Target} (hctrl : tg ≠ .reg .ctrl)
    (hstatus : tg ≠ .reg .status) (hcmd : tg ≠ .reg .cmd) : (s.writeTarget width v tg).irq = s.irq := by
  unfold State.writeTarget
  split
  · exact absurd rfl hctrl
  · exact absurd rfl hstatus
  · exact absurd rfl hcmd
  all_goals rfl

/-! ### Host accesses -/

/-- The line after each access: only writes of CTRL, STATUS and CMD move it. -/
theorem hostAccess_irq {a : HostAccess} {s t : State} (h : hostAccess a s = .next t) :
    (∃ v, a = .write .full 0x004 v ∧ t.irq = (!v.getLsbD 0 && v.getLsbD 1 && s.done)) ∨
      (∃ v, a = .write .full 0x008 v ∧ t.irq = (s.irq && !v.getLsbD 1)) ∨
      (∃ v, a = .write .full 0x010 v ∧ t.irq = (s.irq && s.busy)) ∨
      ((∀ v, a ≠ .write .full 0x004 v) ∧ (∀ v, a ≠ .write .full 0x008 v) ∧ (∀ v, a ≠ .write .full 0x010 v) ∧
        t.irq = s.irq) := by
  obtain ⟨width, off, tg, rfl, -, rfl⟩ | ⟨width, off, v, tg, rfl, ht, -, rfl⟩ := hostAccess_next h
  · refine .inr (.inr (.inr ⟨by simp, by simp, by simp, ?_⟩))
    rw [hostRead_frame]
    rfl
  · have at_offset {r : Reg} {o : Offset} (htg : tg = .reg r) (ho : regAt off.toNat = r → off.toNat = o.toNat) :
        HostAccess.write width off v = .write .full o v := by
      obtain ⟨rfl, hr⟩ := targetOf_reg (htg ▸ ht)
      rw [BitVec.eq_of_toNat_eq (ho hr)]
    obtain ⟨octrl, ostatus, ocmd⟩ := offset_of_regAt (off := off.toNat)
    by_cases hctrl : tg = .reg .ctrl
    · exact .inl ⟨v, at_offset hctrl octrl, hctrl ▸ irq_writeCtrl s v⟩
    by_cases hstatus : tg = .reg .status
    · exact .inr (.inl ⟨v, at_offset hstatus ostatus, hstatus ▸ irq_clearStatus s v⟩)
    by_cases hcmd : tg = .reg .cmd
    · exact .inr (.inr (.inl ⟨v, at_offset hcmd ocmd, hcmd ▸ irq_writeCmd s v⟩))
    have elsewhere {r : Reg} {o : Offset} (htg : tg ≠ .reg r) (ho : targetOf .full o.toNat = .ok (.reg r))
        (w : Word) : HostAccess.write width off v ≠ .write .full o w := by
      rintro ⟨⟩
      exact htg (Except.ok.inj (ht.symm.trans ho))
    exact .inr (.inr (.inr ⟨elsewhere hctrl rfl, elsewhere hstatus rfl, elsewhere hcmd rfl,
      irq_writeTarget_of_ne hctrl hstatus hcmd⟩))

/-! ### Completions -/

theorem irq_fail (s : State) (c : ErrorCode) : (s.fail c).irq = s.irqEn := Bool.and_true _

/-- Every completion leaves DONE set and IRQ_EN as it was. -/
theorem irq_exec {i : Instr} {s t : State} (h : exec i s = .next t) : t.irq = s.irqEn := by
  have done : t.done = true := by obtain ⟨u, -, rfl⟩ | ⟨c, -, rfl⟩ := exec_next h <;> rfl
  rw [State.irq, done, Bool.and_true, (keeps_exec h).irqEn]

theorem irq_engineStep (s : State) : ∃ t, engineStep s = .next t ∧ t.irq = s.irqEn := by
  cases hd : decode s.latch with
  | error c => exact ⟨s.fail c, engineStep_of_decode_error hd, irq_fail s c⟩
  | ok i =>
    obtain ⟨t, ht, -⟩ := engineStep_completes s
    exact ⟨t, ht, irq_exec (engineStep_of_decode_ok hd ▸ ht)⟩

theorem irq_engineTurn {s t : State} (h : engineTurn s = .next t) :
    t.irq = if s.busy then s.irqEn else s.irq := by
  cases hb : s.busy with
  | true =>
    obtain ⟨u, hu, irq⟩ := irq_engineStep s
    obtain rfl : u = t := by simpa [engineTurn_of_busy hb, hu] using h
    exact irq
  | false =>
    obtain rfl : s = t := by simpa [engineTurn_of_idle hb] using h
    rfl

/-! ### Steps -/

/-- The line after each step, by whose turn it is. -/
theorem step_irq {s t : State} (h : step s = .next t) :
    ((s.turns = [] ∨ ∃ ts, s.turns = .engine :: ts) ∧ t.irq = if s.busy then s.irqEn else s.irq) ∨
      ∃ a ts, s.turns = .host a :: ts ∧ hostAccess a (s.setTurns ts) = .next t := by
  obtain ⟨hts, he⟩ | ⟨ts, hts, he⟩ | ha := step_next h
  · exact .inl ⟨.inl hts, irq_engineTurn he⟩
  · exact .inl ⟨.inr ⟨ts, hts⟩, irq_engineTurn (s := s.setTurns ts) he⟩
  · exact .inr ha

/-- A high line falls at a write of DONE's bit, at an acceptance, and at a write of CTRL that clears IRQ_EN. -/
theorem irq_falls_iff {s t : State} (h : step s = .next t) (hirq : s.irq = true) :
    t.irq = false ↔
      (∃ v ts, s.turns = .host (.write .full 0x008 v) :: ts ∧ v.getLsbD 1 = true) ∨
      (∃ w ts, s.turns = .host (.write .full 0x010 w) :: ts ∧ s.busy = false) ∨
      (∃ v ts, s.turns = .host (.write .full 0x004 v) :: ts ∧ (v.getLsbD 0 = true ∨ v.getLsbD 1 = false)) := by
  obtain ⟨hen, hdone⟩ : s.irqEn = true ∧ s.done = true := Bool.and_eq_true_iff.mp hirq
  obtain ⟨hts, ht⟩ | ⟨a, ts, hts, ha⟩ := step_irq h
  · have high : t.irq = true := by simp [ht, hen, hirq]
    obtain hts | ⟨ts, hts⟩ := hts <;> simp [hts, high]
  · have same : (s.setTurns ts).irq = true := hirq
    obtain ⟨v, rfl, ht⟩ | ⟨v, rfl, ht⟩ | ⟨v, rfl, ht⟩ | ⟨nctrl, nstatus, ncmd, ht⟩ := hostAccess_irq ha
    · simp [hts, ht, hdone, or_iff_not_imp_left]
    · simp [hts, ht, same]
    · simp [hts, ht, same]
    · refine iff_of_false (by simp [ht, same]) ?_
      rintro (⟨v, ts', heq, -⟩ | ⟨w, ts', heq, -⟩ | ⟨v, ts', heq, -⟩) <;> cases hts.symm.trans heq
      · exact nstatus v rfl
      · exact ncmd w rfl
      · exact nctrl v rfl

/-- A low line rises at a completion with IRQ_EN = 1, and at a write of IRQ_EN = 1 while DONE = 1. -/
theorem irq_rises_iff {s t : State} (h : step s = .next t) (hirq : s.irq = false) :
    t.irq = true ↔
      ((s.turns = [] ∨ ∃ ts, s.turns = .engine :: ts) ∧ s.busy = true ∧ s.irqEn = true) ∨
      (∃ v ts, s.turns = .host (.write .full 0x004 v) :: ts ∧ v.getLsbD 0 = false ∧ v.getLsbD 1 = true ∧
        s.done = true) := by
  obtain ⟨hts, ht⟩ | ⟨a, ts, hts, ha⟩ := step_irq h
  · have rises : t.irq = true ↔ s.busy = true ∧ s.irqEn = true := by
      rw [ht, hirq]
      split <;> simp_all
    obtain hts | ⟨ts, hts⟩ := hts <;> simp [hts, rises]
  · have same : (s.setTurns ts).irq = false := hirq
    obtain ⟨v, rfl, ht⟩ | ⟨v, rfl, ht⟩ | ⟨v, rfl, ht⟩ | ⟨nctrl, nstatus, ncmd, ht⟩ := hostAccess_irq ha
    · simp [hts, ht, and_assoc]
    · simp [hts, ht, same]
    · simp [hts, ht, same]
    · refine iff_of_false (by simp [ht, same]) ?_
      rintro (⟨hts' | ⟨ts', hts'⟩, -⟩ | ⟨v, ts', heq, -⟩)
      · cases hts.symm.trans hts'
      · cases hts.symm.trans hts'
      · cases hts.symm.trans heq
        exact nctrl v rfl

/-- Settles O50: each operation's effect on IRQ_EN and DONE, and the turns by whose effect the line moves. -/
theorem interruptLine : Obligations.InterruptLine := by
  refine ⟨fun s => rfl, fun i s t => irq_exec, fun s w => Bool.and_false _, fun s v hv => ?_,
    fun s => ⟨rfl, Bool.true_and _, rfl⟩, irq_engineStep, fun s t => irq_falls_iff, fun s t => irq_rises_iff⟩
  rw [irq_clearStatus, hv, Bool.not_true, Bool.and_false]

end Sys2Proof.Machine
